-- ==== Sys2Proof/Word.lean ====
section
/-! DEFINITION. The word types of the MFX (spec/00_scope.md R8): every value is an unsigned bit vector, bit 0 is the least significant. -/

namespace Sys2Proof

/-- One byte of a packet, of a buffer or of a byte-wide register. -/
abbrev Byte := BitVec 8

/-- A 16-bit value: a sequence number, an offset, a length (R24 to R26, R31). -/
abbrev Half := BitVec 16

/-- A 32-bit value: a command word, a host register word, a timestamp, an SSRC (R36, R51). -/
abbrev Word := BitVec 32

/-- The coverage mask in offset order: bit `i` is offset `i` (R21). -/
abbrev Mask := BitVec 48

end Sys2Proof
end

