-- ==== Sys2Proof/Syntax.lean ====
section
/-! DEFINITION. The commands of the MFX: one constructor per row (form) of spec/opcode_table.json, in the table's order (spec/30_encoding.md R52, R55). -/

namespace Sys2Proof

/-- The LIM bit of format L, which selects the length bound (R54, R58). -/
inductive Limit where
  /-- LIM = 0: the decoder's bound 1472. -/
  | dec
  /-- LIM = 1: the encoder's bound 1442. -/
  | enc
  deriving DecidableEq, Repr

/-- One command. An 8-bit operand holds the operand field `A` of the form; that its reserved bits
are 0 is `WellFormed` (R52, R53, R57). -/
inductive Instr where
  /-- NOP, format Z (R69). -/
  | nop
  /-- CTX_NEW #pt, format P (R70). -/
  | ctxNew (pt : Byte)
  /-- STAT_CLR, format Z (R71). -/
  | statClr
  /-- ACC_CLR, format Z (R73). -/
  | accClr
  /-- ACC_FOLD_HDR enc|dec, format L (R74). -/
  | accFoldHdr (lim : Limit)
  /-- ACC_FOLD_PAY enc|dec, format L (R75). -/
  | accFoldPay (lim : Limit)
  /-- ACC_FOLD enc|dec, format L (R76). -/
  | accFold (lim : Limit)
  /-- MASK_CLR, format Z (R78). -/
  | maskClr
  /-- MASK_SET #ofs, format O0 (R79). -/
  | maskSetImm (ofs : Byte)
  /-- MASK_SET OFF, format O1 (R79). -/
  | maskSetOff
  /-- MASK_CLRB #ofs, format O0 (R80). -/
  | maskClrbImm (ofs : Byte)
  /-- MASK_CLRB OFF, format O1 (R80). -/
  | maskClrbOff
  /-- MASK_TEST #ofs, format O0 (R81). -/
  | maskTestImm (ofs : Byte)
  /-- MASK_TEST OFF, format O1 (R81). -/
  | maskTestOff
  /-- MASK_CNT, format Z (R82). -/
  | maskCnt
  /-- MASK_FIRST, format Z (R83). -/
  | maskFirst
  /-- MASK_ISLONG #gs, #mo, format G0 (R84). -/
  | maskIslongImm (gs : Byte) (mo : Half)
  /-- MASK_ISLONG ACC, format G1 (R84). -/
  | maskIslongAcc
  /-- MASK_ENC, format Z (R85). -/
  | maskEnc
  /-- MASK_DEC, format Z (R86). -/
  | maskDec
  /-- SN_OFF #sn, format N0 (R89). -/
  | snOffImm (sn : Half)
  /-- SN_OFF RTP, format N1 (R89). -/
  | snOffRtp
  /-- SN_ADD #k, format N0 (R90). -/
  | snAddImm (k : Half)
  /-- SN_ADD OFF, format N1 (R90). -/
  | snAddOff
  /-- SN_SETBASE #sn, format N0 (R91). -/
  | snSetbaseImm (sn : Half)
  /-- SN_SETBASE RTP, format N1 (R91). -/
  | snSetbaseRtp
  /-- RTP_PARSE enc|dec, format L (R92). -/
  | rtpParse (lim : Limit)
  /-- FEC_ASM, format Z (R95). -/
  | fecAsm
  /-- FEC_PARSE, format Z (R97). -/
  | fecParse
  /-- RECOVER, format Z (R98). -/
  | recover
  deriving DecidableEq, Repr

end Sys2Proof
end

