-- ==== Sys2Proof/WellFormed.lean ====
section
/-! DEFINITION. Well-formed commands: every operand fits its field, so that no reserved bit and no S bit is spelled by an operand (spec/30_encoding.md R52, R57, R58). -/

namespace Sys2Proof

/-- The 7-bit payload type of format P fits: `A[7]` is reserved (R52; R58 "#pt above 127"). -/
abbrev ptFits (pt : Byte) : Prop := pt.toNat < 128

/-- The 6-bit offset of format O0 fits: `A[7]` is S = 0 and `A[6]` is reserved (R52; R58 "#ofs above 63"). -/
abbrev ofsFits (ofs : Byte) : Prop := ofs.toNat < 64

/-- The 7-bit group size of format G0 fits: `A[7]` is S = 0 (R52; R58 "#gs above 127"). -/
abbrev gsFits (gs : Byte) : Prop := gs.toNat < 128

/-- The command's operands fit their fields (R52, R58). -/
abbrev WellFormed (i : Instr) : Prop :=
  match i with
  | .nop => True
  | .ctxNew pt => ptFits pt
  | .statClr => True
  | .accClr => True
  | .accFoldHdr _ => True
  | .accFoldPay _ => True
  | .accFold _ => True
  | .maskClr => True
  | .maskSetImm ofs => ofsFits ofs
  | .maskSetOff => True
  | .maskClrbImm ofs => ofsFits ofs
  | .maskClrbOff => True
  | .maskTestImm ofs => ofsFits ofs
  | .maskTestOff => True
  | .maskCnt => True
  | .maskFirst => True
  | .maskIslongImm gs _ => gsFits gs
  | .maskIslongAcc => True
  | .maskEnc => True
  | .maskDec => True
  | .snOffImm _ => True
  | .snOffRtp => True
  | .snAddImm _ => True
  | .snAddOff => True
  | .snSetbaseImm _ => True
  | .snSetbaseRtp => True
  | .rtpParse _ => True
  | .fecAsm => True
  | .fecParse => True
  | .recover => True

end Sys2Proof
end

