-- ==== Sys2Proof/Decode.lean ====
section
/-! DEFINITION. Decoding and encoding of command words (spec/30_encoding.md R51 to R57). Decoding is total on all 2^32 words and rejects by name; the encoder writes the words of the same tables. -/

namespace Sys2Proof

/-- Why a word is no command (R57). -/
inductive DecodeError where
  /-- The opcode is not in the opcode map. -/
  | unassignedOpcode
  /-- The opcode is assigned and a reserved bit of the selected format is set. -/
  | reservedBitSet
  deriving DecidableEq, Repr

/-! ### The fields of a word (R51) -/

/-- `OP = word[31:24]`. -/
def opField (w : Word) : Byte := w.extractLsb' 24 8

/-- `A = word[23:16]`. -/
def aField (w : Word) : Byte := w.extractLsb' 16 8

/-- `B = word[15:0]`. -/
def bField (w : Word) : Half := w.extractLsb' 0 16

/-- The word whose fields are `OP`, `A`, `B`: `{OP, A, B}`. -/
def mkWord (op a : Byte) (b : Half) : Word := op ++ a ++ b

/-! ### The operand formats (R52) -/

/-- Format Z: `A` and `B` are 0. -/
def decodeZ (a : Byte) (b : Half) (i : Instr) : Except DecodeError Instr :=
  if a = 0 ∧ b = 0 then .ok i else .error .reservedBitSet

/-- Format L: `A[7:1]` and `B` are 0, `A[0]` is LIM (R54). -/
def decodeL (a : Byte) (b : Half) (f : Limit → Instr) : Except DecodeError Instr :=
  if a &&& 0xFE = 0 ∧ b = 0 then .ok (f (if a.getLsbD 0 then .enc else .dec))
  else .error .reservedBitSet

/-- Format P: `A[7]` and `B` are 0, `A[6:0]` is PT. -/
def decodeP (a : Byte) (b : Half) (f : Byte → Instr) : Except DecodeError Instr :=
  if a &&& 0x80 = 0 ∧ b = 0 then .ok (f a) else .error .reservedBitSet

/-- Formats O0 and O1, selected by `S = A[7]` (R56). -/
def decodeO (a : Byte) (b : Half) (imm : Byte → Instr) (reg : Instr) : Except DecodeError Instr :=
  if a.getLsbD 7 then
    if a = 0x80 ∧ b = 0 then .ok reg else .error .reservedBitSet
  else
    if a &&& 0x40 = 0 ∧ b = 0 then .ok (imm a) else .error .reservedBitSet

/-- Formats G0 and G1, selected by `S = A[7]` (R56). -/
def decodeG (a : Byte) (b : Half) (imm : Byte → Half → Instr) (reg : Instr) :
    Except DecodeError Instr :=
  if a.getLsbD 7 then
    if a = 0x80 ∧ b = 0 then .ok reg else .error .reservedBitSet
  else .ok (imm a b)

/-- Formats N0 and N1, selected by `S = A[7]` (R56). -/
def decodeN (a : Byte) (b : Half) (imm : Half → Instr) (reg : Instr) : Except DecodeError Instr :=
  if a.getLsbD 7 then
    if a = 0x80 ∧ b = 0 then .ok reg else .error .reservedBitSet
  else
    if a = 0 then .ok (imm b) else .error .reservedBitSet

/-! ### The opcode map (R55) -/

/-- The decoder: take OP, select the format, check every reserved bit (R55, R56, R57). -/
def decode (w : Word) : Except DecodeError Instr :=
  let a := aField w
  let b := bField w
  match (opField w).toNat with
  | 0x00 => decodeZ a b .nop
  | 0x01 => decodeP a b .ctxNew
  | 0x02 => decodeZ a b .statClr
  | 0x10 => decodeZ a b .accClr
  | 0x11 => decodeL a b .accFoldHdr
  | 0x12 => decodeL a b .accFoldPay
  | 0x13 => decodeL a b .accFold
  | 0x20 => decodeZ a b .maskClr
  | 0x21 => decodeO a b .maskSetImm .maskSetOff
  | 0x22 => decodeO a b .maskClrbImm .maskClrbOff
  | 0x23 => decodeO a b .maskTestImm .maskTestOff
  | 0x24 => decodeZ a b .maskCnt
  | 0x25 => decodeZ a b .maskFirst
  | 0x26 => decodeG a b .maskIslongImm .maskIslongAcc
  | 0x27 => decodeZ a b .maskEnc
  | 0x28 => decodeZ a b .maskDec
  | 0x30 => decodeN a b .snOffImm .snOffRtp
  | 0x31 => decodeN a b .snAddImm .snAddOff
  | 0x32 => decodeN a b .snSetbaseImm .snSetbaseRtp
  | 0x40 => decodeL a b .rtpParse
  | 0x50 => decodeZ a b .fecAsm
  | 0x51 => decodeZ a b .fecParse
  | 0x52 => decodeZ a b .recover
  | _ => .error .unassignedOpcode

/-- What the decoder reads from an instruction whose `nbits` table bits are `w`; the bits above are 0
(one command is one 32-bit word, R51). -/
def decodeTableWord (nbits w : Nat) : Option Instr :=
  match decode (BitVec.ofNat 32 (w % 2 ^ nbits)) with
  | .ok i => some i
  | .error _ => none

/-! ### The encoder -/

/-- The `A` field of format L (R52, R54). -/
def limField : Limit → Byte
  | .dec => 0
  | .enc => 1

/-- The word that spells a command (R52, R55; the "Encoding" line of each command's rule). -/
def encode (i : Instr) : Word :=
  match i with
  | .nop => mkWord 0x00 0 0
  | .ctxNew pt => mkWord 0x01 pt 0
  | .statClr => mkWord 0x02 0 0
  | .accClr => mkWord 0x10 0 0
  | .accFoldHdr lim => mkWord 0x11 (limField lim) 0
  | .accFoldPay lim => mkWord 0x12 (limField lim) 0
  | .accFold lim => mkWord 0x13 (limField lim) 0
  | .maskClr => mkWord 0x20 0 0
  | .maskSetImm ofs => mkWord 0x21 ofs 0
  | .maskSetOff => mkWord 0x21 0x80 0
  | .maskClrbImm ofs => mkWord 0x22 ofs 0
  | .maskClrbOff => mkWord 0x22 0x80 0
  | .maskTestImm ofs => mkWord 0x23 ofs 0
  | .maskTestOff => mkWord 0x23 0x80 0
  | .maskCnt => mkWord 0x24 0 0
  | .maskFirst => mkWord 0x25 0 0
  | .maskIslongImm gs mo => mkWord 0x26 gs mo
  | .maskIslongAcc => mkWord 0x26 0x80 0
  | .maskEnc => mkWord 0x27 0 0
  | .maskDec => mkWord 0x28 0 0
  | .snOffImm sn => mkWord 0x30 0 sn
  | .snOffRtp => mkWord 0x30 0x80 0
  | .snAddImm k => mkWord 0x31 0 k
  | .snAddOff => mkWord 0x31 0x80 0
  | .snSetbaseImm sn => mkWord 0x32 0 sn
  | .snSetbaseRtp => mkWord 0x32 0x80 0
  | .rtpParse lim => mkWord 0x40 (limField lim) 0
  | .fecAsm => mkWord 0x50 0 0
  | .fecParse => mkWord 0x51 0 0
  | .recover => mkWord 0x52 0 0

/-! ### The opcode table (spec/opcode_table.json) -/

/-- One row of the table: the pattern of its fixed bits and which bits are fixed (R56). -/
structure FormRow where
  pattern : Word
  fixedBits : Word
  deriving DecidableEq, Repr

/-- The word spells the form of the row: `w & mask == match` (R56). -/
def FormRow.spelledBy (r : FormRow) (w : Word) : Bool := w &&& r.fixedBits == r.pattern

/-- The row of spec/opcode_table.json that a command's form has. -/
def formRow (i : Instr) : FormRow :=
  match i with
  | .nop => ⟨0x00000000, 0xFFFFFFFF⟩
  | .ctxNew _ => ⟨0x01000000, 0xFF80FFFF⟩
  | .statClr => ⟨0x02000000, 0xFFFFFFFF⟩
  | .accClr => ⟨0x10000000, 0xFFFFFFFF⟩
  | .accFoldHdr _ => ⟨0x11000000, 0xFFFEFFFF⟩
  | .accFoldPay _ => ⟨0x12000000, 0xFFFEFFFF⟩
  | .accFold _ => ⟨0x13000000, 0xFFFEFFFF⟩
  | .maskClr => ⟨0x20000000, 0xFFFFFFFF⟩
  | .maskSetImm _ => ⟨0x21000000, 0xFFC0FFFF⟩
  | .maskSetOff => ⟨0x21800000, 0xFFFFFFFF⟩
  | .maskClrbImm _ => ⟨0x22000000, 0xFFC0FFFF⟩
  | .maskClrbOff => ⟨0x22800000, 0xFFFFFFFF⟩
  | .maskTestImm _ => ⟨0x23000000, 0xFFC0FFFF⟩
  | .maskTestOff => ⟨0x23800000, 0xFFFFFFFF⟩
  | .maskCnt => ⟨0x24000000, 0xFFFFFFFF⟩
  | .maskFirst => ⟨0x25000000, 0xFFFFFFFF⟩
  | .maskIslongImm _ _ => ⟨0x26000000, 0xFF800000⟩
  | .maskIslongAcc => ⟨0x26800000, 0xFFFFFFFF⟩
  | .maskEnc => ⟨0x27000000, 0xFFFFFFFF⟩
  | .maskDec => ⟨0x28000000, 0xFFFFFFFF⟩
  | .snOffImm _ => ⟨0x30000000, 0xFFFF0000⟩
  | .snOffRtp => ⟨0x30800000, 0xFFFFFFFF⟩
  | .snAddImm _ => ⟨0x31000000, 0xFFFF0000⟩
  | .snAddOff => ⟨0x31800000, 0xFFFFFFFF⟩
  | .snSetbaseImm _ => ⟨0x32000000, 0xFFFF0000⟩
  | .snSetbaseRtp => ⟨0x32800000, 0xFFFFFFFF⟩
  | .rtpParse _ => ⟨0x40000000, 0xFFFEFFFF⟩
  | .fecAsm => ⟨0x50000000, 0xFFFFFFFF⟩
  | .fecParse => ⟨0x51000000, 0xFFFFFFFF⟩
  | .recover => ⟨0x52000000, 0xFFFFFFFF⟩

/-- All 30 rows, in the table's order: the form of each constructor. -/
def opcodeTable : List FormRow :=
  [.nop, .ctxNew 0, .statClr, .accClr, .accFoldHdr .dec, .accFoldPay .dec, .accFold .dec, .maskClr,
   .maskSetImm 0, .maskSetOff, .maskClrbImm 0, .maskClrbOff, .maskTestImm 0, .maskTestOff, .maskCnt,
   .maskFirst, .maskIslongImm 0 0, .maskIslongAcc, .maskEnc, .maskDec, .snOffImm 0, .snOffRtp,
   .snAddImm 0, .snAddOff, .snSetbaseImm 0, .snSetbaseRtp, .rtpParse .dec, .fecAsm, .fecParse,
   .recover].map formRow

end Sys2Proof
end

