-- ==== Sys2Proof/Machine/Bytes.lean ====
section
/-! DEFINITION. Big-endian helpers and bit-field helpers (spec/00_scope.md R8, R9). -/

namespace Sys2Proof.Machine

/-! ### Big-endian fields (R9, R41) -/

/-- `be16(b0, b1) = {b0, b1}`. -/
def be16 (b0 b1 : Byte) : Half := b0 ++ b1

/-- `be32(b0, b1, b2, b3) = {b0, b1, b2, b3}`. -/
def be32 (b0 b1 b2 b3 : Byte) : Word := b0 ++ b1 ++ b2 ++ b3

/-- `be48(b0, ..., b5)`. -/
def be48 (b0 b1 b2 b3 b4 b5 : Byte) : BitVec 48 := b0 ++ b1 ++ b2 ++ b3 ++ b4 ++ b5

/-- `v[15:8]`. -/
def hiByte (v : Half) : Byte := v.extractLsb' 8 8

/-- `v[7:0]`. -/
def loByte (v : Half) : Byte := v.extractLsb' 0 8

/-- `BE16(v)`: the bytes `v[15:8], v[7:0]`. -/
def toBE16 (v : Half) : List Byte := [hiByte v, loByte v]

/-- `BE32(v)`: the bytes from `v[31:24]` down to `v[7:0]`. -/
def toBE32 (v : Word) : List Byte :=
  [v.extractLsb' 24 8, v.extractLsb' 16 8, v.extractLsb' 8 8, v.extractLsb' 0 8]

/-- `BE48(v)`: the six bytes from `v[47:40]` down to `v[7:0]`. -/
def toBE48 (v : BitVec 48) : List Byte :=
  [v.extractLsb' 40 8, v.extractLsb' 32 8, v.extractLsb' 24 8, v.extractLsb' 16 8,
   v.extractLsb' 8 8, v.extractLsb' 0 8]

/-! ### Bits of the mask (R8, R21, R65) -/

/-- The `n`-bit value whose bit `i` is `f i`. -/
def bitsOf : (n : Nat) → (Nat → Bool) → BitVec n
  | 0, _ => 0#0
  | n + 1, f => BitVec.cons (f n) (bitsOf n f)

/-- `popcount(v)`, the number of 1 bits (R8). -/
def popcount (m : Mask) : Nat := (List.range 48).countP fun i => m.getLsbD i

/-- The lowest offset whose bit is 1, if there is one (R83). -/
def firstSet (m : Mask) : Option Nat := (List.range 48).find? fun i => m.getLsbD i

/-- The highest offset whose bit is 1, or 0 for the empty mask (R84). -/
def highestSet (m : Mask) : Nat :=
  (((List.range 48).reverse).find? fun i => m.getLsbD i).getD 0

/-- `MASK[o] <- 1` (R79). -/
def withBitSet (m : Mask) (o : Nat) : Mask := m ||| (1#48 <<< o)

/-- `MASK[o] <- 0` (R80). -/
def withBitClear (m : Mask) (o : Nat) : Mask := m &&& ~~~(1#48 <<< o)

/-- The mask has a bit above offset 15, which the short form cannot carry (R85, R95):
`MASK[47:16] != 0`. -/
def hasLongBit (m : Mask) : Bool := m.extractLsb' 16 32 != 0

/-- The short wire value: offset `i` is bit `15 - i` (R65, R85). -/
def wire16 (m : Mask) : Half := bitsOf 16 fun k => m.getLsbD (15 - k)

/-- The long wire value: offset `i` is bit `47 - i` (R65, R85). -/
def wire48 (m : Mask) : BitVec 48 := bitsOf 48 fun k => m.getLsbD (47 - k)

/-- `maskwire(MASK, L)`: the mask's wire bytes (R94). -/
def maskWire (m : Mask) (long : Bool) : List Byte :=
  if long then toBE48 (wire48 m) else toBE16 (wire16 m)

/-- The mask that the short wire value stands for; offsets 16 to 47 are 0 (R86). -/
def unwire16 (w : Half) : Mask := (bitsOf 16 fun i => w.getLsbD (15 - i)).setWidth 48

/-- The mask that the long wire value stands for (R86). -/
def unwire48 (w : BitVec 48) : Mask := bitsOf 48 fun i => w.getLsbD (47 - i)

/-- `maskread(bytes, L)`: the mask that the wire bytes stand for; the short form reads the first two
bytes only (R86, R94). -/
def maskRead (b0 b1 b2 b3 b4 b5 : Byte) (long : Bool) : Mask :=
  if long then unwire48 (be48 b0 b1 b2 b3 b4 b5) else unwire16 (be16 b0 b1)

end Sys2Proof.Machine
end

