-- ==== Sys2Proof/Config.lean ====
section
/-! DEFINITION. What an implementation fixes: the parameters of spec/00_scope.md R6 at the values its table lists, the bus map of spec/20_memory.md R35, and the one free value of the model. -/

namespace Sys2Proof.Config

/-- `P_PAD_STYLE`: how FEC_ASM pads a packet to 4-byte alignment (R67, 90_conflicts.md C5). -/
inductive PadStyle where
  | align
  | single
  deriving DecidableEq, Repr

/-- `P_PAD_FLAG_LOC`: where FEC_ASM sets the padding flag 0x20 (R63, 90_conflicts.md C4). -/
inductive PadFlagLoc where
  | rtpByte0
  | fecByte12
  deriving DecidableEq, Repr

/-- `P_HDR_LEN`, the media header's length (R6). -/
def hdrLen : Nat := 12
/-- `P_FECHDR_LEN`, the FEC header's length (R6). -/
def fecHdrLen : Nat := 10
/-- `P_MIN_LEN`, the least packet length (R6, R54). -/
def minLen : Nat := 12
/-- `P_MAX_ENC_LEN`, the encoder's length bound (R6, R54). -/
def maxEncLen : Nat := 1442
/-- `P_MAX_DEC_LEN`, the decoder's length bound and the capacity of IN (R6, R54). -/
def maxDecLen : Nat := 1472
/-- `P_MAX_GROUP`, the largest group (R6, R100). -/
def maxGroup : Nat := 48
/-- `P_MASK_BITS`, the long mask's width (R6, R77). -/
def maskBits : Nat := 48
/-- `P_SHORT_BITS`, the short mask's width (R6, R84). -/
def shortBits : Nat := 16
/-- `P_PACC_BYTES`, the payload accumulator's capacity (R6, R16). -/
def paccBytes : Nat := 1460
/-- `P_OUT_BYTES`, the capacity of OUT (R6, R38). -/
def outBytes : Nat := 1472
/-- `P_SEQ_INIT`, the FEC sequence counter after reset and CTX_NEW (R6, R70). -/
def seqInit : Half := 0
/-- `P_PAD_STYLE` at the table's value (R6). -/
def padStyle : PadStyle := .align
/-- `P_PAD_FLAG_LOC` at the table's value (R6). -/
def padFlagLoc : PadFlagLoc := .rtpByte0
/-- `P_FEC_B0`, byte 0 of an FEC packet before the padding flag (R6, R61). -/
def fecB0 : Byte := 0x80
/-- `P_RECOV_VBITS`, bits 7:6 of byte 0 of a recovered packet (R6, R98). -/
def recovVbits : BitVec 2 := 0b10
/-- `P_FEC_PT_RESET`, the FEC payload type after reset (R6, R34). -/
def fecPtReset : BitVec 7 := 0

/-- The capacity of IN in bytes, `P_MAX_DEC_LEN` (R37). -/
def inBytes : Nat := maxDecLen
/-- Host address of `IN[0]` (R35, R37). -/
def inBase : Nat := 0x1000
/-- Host address of `OUT[0]` (R35, R38). -/
def outBase : Nat := 0x2000
/-- Host address of `PACC[0]` (R35, R39). -/
def paccBase : Nat := 0x3000
/-- The first address past the register window 0x0000-0x0063 (R35). -/
def regEnd : Nat := 0x64

/-- FREE VALUE (log 1). The byte that a cell of IN or OUT holds when nothing has written it since the
last reset: "unspecified: each byte any value (a draw)" (R34, R40). The first argument counts the resets
so far, so that each reset draws afresh; the second is the cell's bus address. -/
opaque unwrittenByte : Nat → Nat → Byte

end Sys2Proof.Config
end

