-- ==== Sys2Proof/Machine/State.lean ====
section
/-! DEFINITION. The state of one MFX instance as plain data (spec/10_state.md, 20_memory.md), the host's accesses waiting at its port, the error codes, and the state after reset. -/

namespace Sys2Proof.Machine

/-- The width of a host access (R43). -/
inductive Width where
  | b8
  | b16
  | b32
  deriving DecidableEq, Repr

/-- One thing the host does at the block's port: a bus read, a bus write, or the reset (R35, R43, R117). -/
inductive HostEvent where
  | read (width : Width) (addr : BitVec 16)
  | write (width : Width) (addr : BitVec 16) (data : Word)
  | reset
  deriving DecidableEq, Repr

/-- The error codes a command may raise (R104; code 0 is OK and is no error). -/
inductive ErrCode where
  | illegalCmd
  | invalidLen
  | offsetRange
  | zeroGroup
  | malformedFec
  | unrecoverable
  /-- Code 7, kept for the source's kind and never raised (R105). -/
  | outOfMemory
  deriving DecidableEq, Repr

/-- Why the machine stops with a fault: NEVER. Every command and every host access, legal or not,
has an effect in the spec (R44, R106, R120 "never undefined behaviour"), so this type has no constructor
and no one raises it. Safe: nothing is stopped. -/
inductive Fault where
  deriving DecidableEq, Repr

/-- Why the machine refuses. -/
inductive Refusal where
  /-- An instruction without a meaning. Raised by an arm of `exec` only; every arm has its meaning, so no
  one raises it. Safe: a refusal proves nothing. -/
  | notModelled (mnemonic : String)
  deriving DecidableEq, Repr

/-- The bytes of the three buffers, by host bus address (R35): strictly rising addresses, and no entry
equal to what an unlisted address holds (`Memory.wf` in Machine/Ops.lean). -/
abbrev Memory := List Host.Cell

/-- All the state of one MFX instance (R33: nothing is hidden), and three fields of the model's own. -/
structure State where
  /-- FEC_PT, the configured FEC payload type (R14). -/
  fecPt : BitVec 7
  /-- FEC_SEQ, the FEC sequence counter (R14). -/
  fecSeq : Half
  /-- HACC[0..9], the header XOR accumulator (R15). -/
  hacc : Vector Byte 10
  /-- FCNT, header folds since the last ACC_CLR or FEC_PARSE (R17). -/
  fcnt : Byte
  /-- PMAX, the largest payload length (R17). -/
  pmax : Half
  /-- PROT, the protection length of the parsed FEC packet (R18). -/
  prot : Half
  /-- LAST_TS, timestamp of the last header-folded packet (R19). -/
  lastTs : Word
  /-- LAST_SSRC, SSRC of the last header-folded packet (R19). -/
  lastSsrc : Word
  /-- FEC_SSRC, bytes 8-11 of the last parsed FEC packet (R20). -/
  fecSsrc : Word
  /-- MASK, bit `i` is offset `i` (R21). -/
  mask : Mask
  /-- ISLONG, the long-mask flag (R22). -/
  islong : Bool
  /-- MW[0..5], the mask wire staging register (R23). -/
  mw : Vector Byte 6
  /-- SNBASE, the group's base sequence number (R24). -/
  snbase : Half
  /-- SNB_VALID (R24). -/
  snbValid : Bool
  /-- OFF, the last offset of SN_OFF (R25). -/
  off : Half
  /-- RTP_B0 (R26). -/
  rtpB0 : Byte
  /-- RTP_B1 (R26). -/
  rtpB1 : Byte
  /-- RTP_SN (R26). -/
  rtpSn : Half
  /-- RTP_TS (R26). -/
  rtpTs : Word
  /-- RTP_SSRC (R26). -/
  rtpSsrc : Word
  /-- RTP_PLEN (R26). -/
  rtpPlen : Half
  /-- STATUS.ERR, bits 3:0 (R27). -/
  err : BitVec 4
  /-- STATUS.NONE, bit 4 (R27). -/
  flagNone : Bool
  /-- STATUS.INWIN, bit 5 (R27). -/
  flagInwin : Bool
  /-- STATUS.ISFEC, bit 6 (R27). -/
  flagIsfec : Bool
  /-- STATUS.BIT, bit 7 (R27). -/
  flagBit : Bool
  /-- STATUS.BUSERR, bit 8 (R27, R44). -/
  flagBuserr : Bool
  /-- STATUS.STICKY, bit 15 (R27). -/
  flagSticky : Bool
  /-- RES, the last numeric result (R29). -/
  res : Word
  /-- ERRCMD, the first failing command word (R30). -/
  errcmd : Word
  /-- IN_LEN (R31). -/
  inLen : Half
  /-- OUT_LEN (R32). -/
  outLen : Half
  /-- The bytes of IN, OUT and PACC by bus address (R16, R37, R38, R39). -/
  mem : Memory
  /-- MODEL'S OWN (log 2): the host's accesses not yet served, oldest first (R47). -/
  host : List HostEvent
  /-- MODEL'S OWN (log 3): the data that the last bus read returned. -/
  busData : Word
  /-- MODEL'S OWN (log 1): how many resets so far, which selects the draw of the unwritten bytes. -/
  epoch : Nat
  deriving DecidableEq, Repr

/-- The machine right after reset (R34, R117): every register at its reset value, PACC all zero and
IN and OUT unspecified (no byte is listed), no host access waiting. -/
def State.reset : State where
  fecPt := Config.fecPtReset
  fecSeq := Config.seqInit
  hacc := #v[0, 0, 0, 0, 0, 0, 0, 0, 0, 0]
  fcnt := 0
  pmax := 0
  prot := 0
  lastTs := 0
  lastSsrc := 0
  fecSsrc := 0
  mask := 0
  islong := false
  mw := #v[0, 0, 0, 0, 0, 0]
  snbase := 0
  snbValid := false
  off := 0
  rtpB0 := 0
  rtpB1 := 0
  rtpSn := 0
  rtpTs := 0
  rtpSsrc := 0
  rtpPlen := 0
  err := 0
  flagNone := false
  flagInwin := false
  flagIsfec := false
  flagBit := false
  flagBuserr := false
  flagSticky := false
  res := 0
  errcmd := 0
  inLen := 0
  outLen := 0
  mem := []
  host := []
  busData := 0
  epoch := 0

end Sys2Proof.Machine
end

