-- ==== Sys2Proof/Machine/Ops.lean ====
section
/-! DEFINITION. The named operations over the buffers and the error record (spec/00_scope.md R10, R11; 20_memory.md R35 to R40; 60_exceptions.md R106, R107, R109). -/

namespace Sys2Proof.Machine

/-! ### The buffers by bus address -/

/-- The address lies in IN (R37). -/
def inIn (a : Nat) : Bool := decide (Config.inBase ≤ a) && decide (a < Config.inBase + Config.inBytes)

/-- The address lies in OUT (R38). -/
def inOut (a : Nat) : Bool :=
  decide (Config.outBase ≤ a) && decide (a < Config.outBase + Config.outBytes)

/-- The address lies in the PACC window (R39). -/
def inPacc (a : Nat) : Bool :=
  decide (Config.paccBase ≤ a) && decide (a < Config.paccBase + Config.paccBytes)

/-- The address lies in one of the three buffers. -/
def inBuffer (a : Nat) : Bool := inIn a || inOut a || inPacc a

/-- What an unlisted address holds: PACC is zero after reset; a byte of IN or OUT that nothing has
written has no value of its own and reads as a draw (R34, R40; log 1). -/
def unlisted (a : Nat) : Option Byte := if inPacc a then some 0 else none

/-- The byte listed at an address. -/
def memLookup : Memory → Nat → Option Byte
  | [], _ => none
  | (k, v) :: m, a => if k = a then some v else memLookup m a

/-- Take an address out of the list. -/
def memErase : Memory → Nat → Memory
  | [], _ => []
  | (k, v) :: m, a => if k = a then memErase m a else (k, v) :: memErase m a

/-- Put a byte at its place in the rising list. -/
def memInsert : Memory → Nat → Byte → Memory
  | [], a, b => [(a, b)]
  | (k, v) :: m, a, b =>
    if a < k then (a, b) :: (k, v) :: m
    else if a = k then (a, b) :: m
    else (k, v) :: memInsert m a b

/-- Write one byte, keeping the canonical form: the value an unlisted address holds is not listed. -/
def memWrite (m : Memory) (a : Nat) (b : Byte) : Memory :=
  if unlisted a = some b then memErase m a else memInsert m a b

/-- Write consecutive bytes from an address on (`MemWrite` of R10, a byte list for its value). -/
def memWriteBytes : Memory → Nat → List Byte → Memory
  | m, _, [] => m
  | m, a, b :: bs => memWriteBytes (memWrite m a b) (a + 1) bs

/-- `for j in 0..1459: PACC[j] <- 0` (R73). -/
def memClearPacc (m : Memory) : Memory := m.filter fun c => !inPacc c.1

/-- The addresses of the list rise strictly. -/
def memRising : Memory → Bool
  | [] => true
  | (k, _) :: m => m.all (fun c => decide (k < c.1)) && memRising m

/-- The canonical form of the buffers: rising addresses, and no entry equal to what an unlisted address
holds. -/
def Memory.wf (m : Memory) : Bool :=
  memRising m && m.all fun c => unlisted c.1 != some c.2

/-- The byte at a bus address of the buffers, in an epoch: the last byte written there, else what an unlisted
address holds, else the epoch's draw (R34, R40). -/
def memRead (epoch : Nat) (m : Memory) (a : Nat) : Byte :=
  match memLookup m a with
  | some b => b
  | none => (unlisted a).getD (Config.unwrittenByte epoch a)

/-- The byte at a bus address of the buffers in a state (R34, R40). -/
def byteAt (s : State) (a : Nat) : Byte := memRead s.epoch s.mem a

/-- `IN[i]` (R37). -/
def inByte (s : State) (i : Nat) : Byte := byteAt s (Config.inBase + i)

/-- `OUT[i]` (R38). -/
def outByte (s : State) (i : Nat) : Byte := byteAt s (Config.outBase + i)

/-- `PACC[j]` (R16, R39). -/
def paccByte (s : State) (j : Nat) : Byte := byteAt s (Config.paccBase + j)

/-- `be16(IN[i], IN[i+1])`. -/
def inBE16 (s : State) (i : Nat) : Half := be16 (inByte s i) (inByte s (i + 1))

/-- `be32(IN[i], ..., IN[i+3])`. -/
def inBE32 (s : State) (i : Nat) : Word :=
  be32 (inByte s i) (inByte s (i + 1)) (inByte s (i + 2)) (inByte s (i + 3))

/-- `IN[i..i+n-1]` as a list. -/
def inBytesFrom (s : State) (i n : Nat) : List Byte := (List.range n).map fun j => inByte s (i + j)

/-- `PACC[0..n-1]` as a list. -/
def paccBytesTo (s : State) (n : Nat) : List Byte := (List.range n).map fun j => paccByte s j

/-! ### Ending a command -/

/-- The number of an error code in STATUS.ERR (R104). -/
def ErrCode.number : ErrCode → BitVec 4
  | .illegalCmd => 1
  | .invalidLen => 2
  | .offsetRange => 3
  | .zeroGroup => 4
  | .malformedFec => 5
  | .unrecoverable => 6
  | .outOfMemory => 7

/-- TAKING AN ERROR, the MFX's whole trap entry: the error record for code `c` of the command whose word is
`w`; nothing else changes (R106, R107). -/
def raiseErr (w : Word) (c : ErrCode) (s : State) : State :=
  { s with
    errcmd := if s.flagSticky then s.errcmd else w
    err := c.number
    flagSticky := true }

/-- The counterpart of a trap return: what STAT_CLR clears (R71, R109). -/
def clearErrorRecord (s : State) : State :=
  { s with flagSticky := false, flagBuserr := false, errcmd := 0 }

/-- `finish()`: success sets STATUS.ERR to 0 and changes nothing else of the error record (R107). -/
def finish (s : State) : State := { s with err := 0 }

/-- The end of the command whose word is `w`, started in state `s`: its updates and `finish()`, or the
error record on the state from before the command (R11, R106, R107). -/
def complete (w : Word) (s : State) (r : Except ErrCode State) :
    Host.Outcome State Fault Refusal :=
  match r with
  | .ok t => .next (finish t)
  | .error c => .next (raiseErr w c s)

end Sys2Proof.Machine
end

