-- ==== Sys2Proof/Machine/Flags.lean ====
section
/-! DEFINITION. The condition flags' values and the STATUS word (spec/10_state.md R27; 44_seqnum.md R88; 45_rtp_extract.md R92, R93). -/

namespace Sys2Proof.Machine

/-- `WMAX`: the last offset of the window (R88). -/
def windowMax (long : Bool) : Nat := if long then 47 else 15

/-- INWIN: the offset lies in the window of a mask of this width (R88). -/
def inWindow (long : Bool) (o : Half) : Bool := decide (o.toNat ≤ windowMax long)

/-- The payload type in header byte 1, `B1[6:0]` (R60, R93). -/
def ptOf (b1 : Byte) : BitVec 7 := b1.extractLsb' 0 7

/-- ISFEC: the payload type is the configured one; the marker takes no part (R92). -/
def isFecCandidate (fecPt : BitVec 7) (b1 : Byte) : Bool := ptOf b1 == fecPt

/-- A flag as a result word, `zext_32(f)`. -/
def flagWord (f : Bool) : Word := if f then 1 else 0

/-- The host word STATUS: ERR in 3:0, NONE 4, INWIN 5, ISFEC 6, BIT 7, BUSERR 8, STICKY 15, every other
bit 0 (R27). -/
def statusWord (s : State) : Word :=
  (0#16 : BitVec 16) ++ BitVec.ofBool s.flagSticky ++ (0#6 : BitVec 6) ++ BitVec.ofBool s.flagBuserr
    ++ BitVec.ofBool s.flagBit ++ BitVec.ofBool s.flagIsfec ++ BitVec.ofBool s.flagInwin
    ++ BitVec.ofBool s.flagNone ++ s.err

/-! ### The views of the extracted header (R26, R93) -/

/-- RTP_V = RTP_B0[7:6]. -/
def rtpV (s : State) : BitVec 2 := s.rtpB0.extractLsb' 6 2
/-- RTP_P = RTP_B0[5]. -/
def rtpP (s : State) : Bool := s.rtpB0.getLsbD 5
/-- RTP_X = RTP_B0[4]. -/
def rtpX (s : State) : Bool := s.rtpB0.getLsbD 4
/-- RTP_CC = RTP_B0[3:0]. -/
def rtpCC (s : State) : BitVec 4 := s.rtpB0.extractLsb' 0 4
/-- RTP_M = RTP_B1[7]. -/
def rtpM (s : State) : Bool := s.rtpB1.getLsbD 7
/-- RTP_PT = RTP_B1[6:0]. -/
def rtpPT (s : State) : BitVec 7 := ptOf s.rtpB1

end Sys2Proof.Machine
end

