-- ==== Sys2Proof/Machine/Bus.lean ====
section
/-! DEFINITION. The host bus: the register window, legal and illegal accesses, reads, storing writes and the reset (spec/20_memory.md R35 to R47; 70_reset_and_hazards.md R117). -/

namespace Sys2Proof.Machine

/-! ### Register addresses (R36) -/

/-- Host address of CMD. -/
def cmdAddr : Nat := 0x0000
/-- Host address of IN_LEN. -/
def inLenAddr : Nat := 0x0010
/-- Host address of MW_LO. -/
def mwLoAddr : Nat := 0x002C
/-- Host address of MW_HI. -/
def mwHiAddr : Nat := 0x0030

/-- The host word of the register at an address of the register window (R36); CMD reads 0 (R43). -/
def regWord (s : State) (a : Nat) : Word :=
  match a with
  | 0x0000 => 0
  | 0x0004 => statusWord s
  | 0x0008 => s.res
  | 0x000C => s.errcmd
  | 0x0010 => s.inLen.setWidth 32
  | 0x0014 => s.outLen.setWidth 32
  | 0x0018 => s.fecSeq ++ (0#9 : BitVec 9) ++ s.fecPt
  | 0x001C => (0#14 : BitVec 14) ++ BitVec.ofBool s.islong ++ BitVec.ofBool s.snbValid ++ s.snbase
  | 0x0020 => s.off.setWidth 32
  | 0x0024 => s.mask.extractLsb' 0 32
  | 0x0028 => (s.mask.extractLsb' 32 16).setWidth 32
  | 0x002C => be32 s.mw[0] s.mw[1] s.mw[2] s.mw[3]
  | 0x0030 => be32 s.mw[4] s.mw[5] 0 0
  | 0x0034 => s.pmax ++ (0#8 : BitVec 8) ++ s.fcnt
  | 0x0038 => s.prot.setWidth 32
  | 0x003C => s.rtpSn ++ s.rtpB1 ++ s.rtpB0
  | 0x0040 => s.rtpTs
  | 0x0044 => s.rtpSsrc
  | 0x0048 => s.rtpPlen.setWidth 32
  | 0x004C => s.lastTs
  | 0x0050 => s.lastSsrc
  | 0x0054 => s.fecSsrc
  | 0x0058 => be32 s.hacc[0] s.hacc[1] s.hacc[2] s.hacc[3]
  | 0x005C => be32 s.hacc[4] s.hacc[5] s.hacc[6] s.hacc[7]
  | 0x0060 => be32 s.hacc[8] s.hacc[9] 0 0
  | _ => 0

/-! ### Legal accesses (R43) -/

/-- The host may read at this width and address. -/
def readLegal (w : Width) (a : Nat) : Bool :=
  match w with
  | .b8 => inBuffer a
  | .b16 => false
  | .b32 => decide (a % 4 = 0) && (decide (a < Config.regEnd) || inBuffer a)

/-- The register at this address may be written: CMD, IN_LEN, MW_LO, MW_HI (R36). -/
def regWritable (a : Nat) : Bool :=
  decide (a = cmdAddr) || decide (a = inLenAddr) || decide (a = mwLoAddr) || decide (a = mwHiAddr)

/-- The host may write at this width and address. -/
def writeLegal (w : Width) (a : Nat) : Bool :=
  match w with
  | .b8 => inIn a
  | .b16 => false
  | .b32 => decide (a % 4 = 0) && (regWritable a || inIn a)

/-- An illegal access sets BUSERR and nothing else (R44). -/
def busError (s : State) : State := { s with flagBuserr := true }

/-! ### Reads (R42, R43, R44, R46) -/

/-- The big-endian word at a buffer address: four byte reads at once (R42). -/
def bufferWord (s : State) (a : Nat) : Word :=
  be32 (byteAt s a) (byteAt s (a + 1)) (byteAt s (a + 2)) (byteAt s (a + 3))

/-- The data of a legal read: a byte in bits 7:0, a register word or a buffer word (R42). -/
def readData (w : Width) (a : Nat) (s : State) : Word :=
  match w with
  | .b8 => (byteAt s a).setWidth 32
  | .b16 => 0
  | .b32 => if a < Config.regEnd then regWord s a else bufferWord s a

/-- A bus read: the data is returned and nothing changes; an illegal read returns 0 and sets BUSERR
(R44, R46). -/
def busRead (w : Width) (a : Nat) (s : State) : State :=
  if readLegal w a then { s with busData := readData w a s }
  else { busError s with busData := 0 }

/-! ### Storing writes (R23, R31, R37, R42) -/

/-- `IN_LEN <- d[15:0]`; the other bits are ignored (R31). -/
def storeInLen (d : Word) (s : State) : State := { s with inLen := d.extractLsb' 0 16 }

/-- `MW[0..3] <- BE32(d)` (R23). -/
def storeMwLo (d : Word) (s : State) : State :=
  { s with
    mw := #v[d.extractLsb' 24 8, d.extractLsb' 16 8, d.extractLsb' 8 8, d.extractLsb' 0 8,
             s.mw[4], s.mw[5]] }

/-- `MW[4..5] <- d[31:24], d[23:16]`; bits 15:0 are ignored (R23). -/
def storeMwHi (d : Word) (s : State) : State :=
  { s with
    mw := #v[s.mw[0], s.mw[1], s.mw[2], s.mw[3], d.extractLsb' 24 8, d.extractLsb' 16 8] }

/-- Store bytes into IN from a bus address on (R37, R42). -/
def storeIn (a : Nat) (bs : List Byte) (s : State) : State :=
  { s with mem := memWriteBytes s.mem a bs }

/-- A bus write that is not a write to CMD: it stores, or is illegal and sets BUSERR (R44, R46). -/
def busStore (w : Width) (a : Nat) (d : Word) (s : State) : State :=
  if writeLegal w a then
    match w with
    | .b8 => storeIn a [d.extractLsb' 0 8] s
    | .b16 => s
    | .b32 =>
      if a = inLenAddr then storeInLen d s
      else if a = mwLoAddr then storeMwLo d s
      else if a = mwHiAddr then storeMwHi d s
      else storeIn a (toBE32 d) s
  else busError s

/-! ### Reset (R34, R117) -/

/-- The state after a reset between two host accesses: the reset values, the accesses still waiting, and
a new draw of the unwritten bytes of IN and OUT (R117; log 1, log 3). -/
def afterReset (s : State) : State :=
  { State.reset with host := s.host, busData := s.busData, epoch := s.epoch + 1 }

/-! ### The next host event (R46, R47) -/

/-- What the block does with the oldest waiting host event: all is settled in a state, or a command word was
written to CMD. -/
inductive Served where
  | settled (s : State)
  | command (w : Word) (s : State)
  deriving DecidableEq, Repr

/-- Serve one host event in a state from which it has been taken (R46). -/
def serveEvent (e : HostEvent) (s : State) : Served :=
  match e with
  | .reset => .settled (afterReset s)
  | .read w a => .settled (busRead w a.toNat s)
  | .write w a d =>
    if w = .b32 ∧ a.toNat = cmdAddr then .command d s else .settled (busStore w a.toNat d s)

/-- Take the oldest host event; with none waiting nothing happens (R47; log 2). -/
def serve (s : State) : Served :=
  match s.host with
  | [] => .settled s
  | e :: rest => serveEvent e { s with host := rest }

end Sys2Proof.Machine
end

