-- ==== Sys2Proof/Machine/Operands.lean ====
section
/-! DEFINITION. The operand forms of the commands: the length limit, offsets, group sizes and sequence numbers (spec/30_encoding.md R52 to R54; 42_accumulator.md R72; 43_mask.md R77, R84; 44_seqnum.md R89 to R91). -/

namespace Sys2Proof.Machine

/-- The upper length bound that LIM selects (R54). -/
def limitOf : Limit → Nat
  | .dec => Config.maxDecLen
  | .enc => Config.maxEncLen

/-- `lenchk(LIM)`: the packet's length, or INVALID_LEN (R72). -/
def lenchk (lim : Limit) (s : State) : Except ErrCode Nat :=
  if s.inLen.toNat < Config.minLen ∨ limitOf lim < s.inLen.toNat then .error .invalidLen
  else .ok s.inLen.toNat

/-- The S = 0 offset operand: `zext_16(A[5:0])` (R53, R77). -/
def ofsImm (a : Byte) : Half := (a.extractLsb' 0 6).setWidth 16

/-- The S = 1 offset operand: the register OFF (R77). -/
def ofsReg (s : State) : Half := s.off

/-- `ofs()`: the offset, or OFFSET_RANGE from 48 on (R77). -/
def ofsCheck (o : Half) : Except ErrCode Nat :=
  if Config.maskBits ≤ o.toNat then .error .offsetRange else .ok o.toNat

/-- The S = 0 group size: `zext(A[6:0])` (R53, R84). -/
def gsImm (a : Byte) : Nat := (a.extractLsb' 0 7).toNat

/-- The S = 1 group size: FCNT (R84). -/
def gsReg (s : State) : Nat := s.fcnt.toNat

/-- The S = 1 maximum offset: the highest set offset of MASK, or 0 (R84). -/
def moReg (s : State) : Nat := highestSet s.mask

/-- The PT operand: `A[6:0]` (R53, R70). -/
def ptOperand (a : Byte) : BitVec 7 := a.extractLsb' 0 7

/-- The S = 1 operand of SN_OFF and SN_SETBASE: RTP_SN (R89, R91). -/
def snReg (s : State) : Half := s.rtpSn

/-- The S = 1 operand of SN_ADD: OFF (R90; log 5). -/
def addendReg (s : State) : Half := s.off

end Sys2Proof.Machine
end

