-- ==== Sys2Proof/Machine/Accumulator.lean ====
section
/-! DEFINITION. The XOR accumulator (spec/42_accumulator.md R72 to R76). -/

namespace Sys2Proof.Machine

/-- `FCNT <- min(FCNT + 1, 255)` (R74). -/
def fcntNext (c : Byte) : Byte := BitVec.ofNat 8 (min (c.toNat + 1) 255)

/-- HACC after folding the header of the packet in IN, whose payload is `l` bytes long (R74). -/
def haccFolded (l : Half) (s : State) : Vector Byte 10 :=
  #v[s.hacc[0] ^^^ inByte s 0, s.hacc[1] ^^^ inByte s 1, s.hacc[2] ^^^ inByte s 2,
     s.hacc[3] ^^^ inByte s 3, s.hacc[4] ^^^ inByte s 4, s.hacc[5] ^^^ inByte s 5,
     s.hacc[6] ^^^ inByte s 6, s.hacc[7] ^^^ inByte s 7, s.hacc[8] ^^^ hiByte l,
     s.hacc[9] ^^^ loByte l]

/-- The updates of a header fold of a packet of length `len` (R74). -/
def foldHdr (len : Nat) (s : State) : State :=
  { s with
    hacc := haccFolded (BitVec.ofNat 16 (len - Config.hdrLen)) s
    snbase := if s.snbValid then s.snbase else inBE16 s 2
    snbValid := true
    lastTs := inBE32 s 4
    lastSsrc := inBE32 s 8
    fcnt := fcntNext s.fcnt }

/-- `PACC[j] ^ IN[12 + j]` for each byte `j` of a payload of `l` bytes (R75). -/
def paccFolded (l : Nat) (s : State) : List Byte :=
  (List.range l).map fun j => paccByte s j ^^^ inByte s (Config.hdrLen + j)

/-- The updates of a payload fold of a packet of length `len` (R75). -/
def foldPay (len : Nat) (s : State) : State :=
  { s with
    mem := memWriteBytes s.mem Config.paccBase (paccFolded (len - Config.hdrLen) s)
    pmax := BitVec.ofNat 16 (max s.pmax.toNat (len - Config.hdrLen)) }

/-- A fold with its length check: the updates `f` for the checked length (R72). -/
def checkedFold (lim : Limit) (f : Nat → State → State) (s : State) : Except ErrCode State :=
  match lenchk lim s with
  | .ok len => .ok (f len s)
  | .error c => .error c

/-- The accumulator emptied for a new group (R73). -/
def accCleared (s : State) : State :=
  { s with
    hacc := #v[0, 0, 0, 0, 0, 0, 0, 0, 0, 0]
    mem := memClearPacc s.mem
    pmax := 0
    fcnt := 0
    snbValid := false }

/-- ACC_CLR (R73). -/
def execAccClr (s : State) : Host.Outcome State Fault Refusal :=
  complete (encode .accClr) s (.ok (accCleared s))

/-- ACC_FOLD_HDR (R74). -/
def execAccFoldHdr (lim : Limit) (s : State) : Host.Outcome State Fault Refusal :=
  complete (encode (.accFoldHdr lim)) s (checkedFold lim foldHdr s)

/-- ACC_FOLD_PAY (R75). -/
def execAccFoldPay (lim : Limit) (s : State) : Host.Outcome State Fault Refusal :=
  complete (encode (.accFoldPay lim)) s (checkedFold lim foldPay s)

/-- ACC_FOLD: both folds of the same packet under one length check. The two write different state and
neither writes IN, so one may follow the other (R76). -/
def execAccFold (lim : Limit) (s : State) : Host.Outcome State Fault Refusal :=
  complete (encode (.accFold lim)) s (checkedFold lim (fun len t => foldPay len (foldHdr len t)) s)

end Sys2Proof.Machine
end

