-- ==== Sys2Proof/Machine/Control.lean ====
section
/-! DEFINITION. Control and context commands (spec/41_control.md R69 to R71). -/

namespace Sys2Proof.Machine

/-- NOP does nothing but set ERR to 0 (R69). -/
def execNop (s : State) : Host.Outcome State Fault Refusal := complete (encode .nop) s (.ok s)

/-- CTX_NEW sets FEC_PT and restarts FEC_SEQ (R70). -/
def execCtxNew (pt : Byte) (s : State) : Host.Outcome State Fault Refusal :=
  complete (encode (.ctxNew pt)) s
    (.ok { s with fecPt := ptOperand pt, fecSeq := Config.seqInit })

/-- STAT_CLR clears STICKY, BUSERR, ERRCMD and ERR (R71). -/
def execStatClr (s : State) : Host.Outcome State Fault Refusal :=
  complete (encode .statClr) s (.ok (clearErrorRecord s))

end Sys2Proof.Machine
end

