-- ==== Sys2Proof/Machine/MaskUnit.lean ====
section
/-! DEFINITION. The bitmask unit (spec/43_mask.md R77 to R86). -/

namespace Sys2Proof.Machine

/-- `MASK[o] <- 1` at a checked offset (R79). -/
def maskSet (o : Half) (s : State) : Except ErrCode State :=
  match ofsCheck o with
  | .ok k => .ok { s with mask := withBitSet s.mask k }
  | .error c => .error c

/-- `MASK[o] <- 0` at a checked offset (R80). -/
def maskClrb (o : Half) (s : State) : Except ErrCode State :=
  match ofsCheck o with
  | .ok k => .ok { s with mask := withBitClear s.mask k }
  | .error c => .error c

/-- `STATUS.BIT <- MASK[o]` and `RES <- zext_32(MASK[o])` at a checked offset (R81). -/
def maskTest (o : Half) (s : State) : Except ErrCode State :=
  match ofsCheck o with
  | .ok k => .ok { s with flagBit := s.mask.getLsbD k, res := flagWord (s.mask.getLsbD k) }
  | .error c => .error c

/-- The mask width for a group size and a maximum offset: long when `gs > 16` or `mo >= 16` (R84). -/
def isLongFor (gs mo : Nat) : Bool :=
  decide (Config.shortBits < gs) || decide (Config.shortBits ≤ mo)

/-- `ISLONG <- l; RES <- zext_32(l)` (R84). -/
def setIslong (l : Bool) (s : State) : State := { s with islong := l, res := flagWord l }

/-- MW holding a list of at most six wire bytes, the rest 0 (R85, R97). -/
def mwOf (bs : List Byte) : Vector Byte 6 :=
  #v[bs.getD 0 0, bs.getD 1 0, bs.getD 2 0, bs.getD 3 0, bs.getD 4 0, bs.getD 5 0]

/-- The short form is selected and a bit above offset 15 is set (R85, R95). -/
def maskDoesNotFit (s : State) : Bool := !s.islong && hasLongBit s.mask

/-- MASK_CLR (R78). -/
def execMaskClr (s : State) : Host.Outcome State Fault Refusal :=
  complete (encode .maskClr) s (.ok { s with mask := 0 })

/-- MASK_SET #ofs (R79). -/
def execMaskSetImm (ofs : Byte) (s : State) : Host.Outcome State Fault Refusal :=
  complete (encode (.maskSetImm ofs)) s (maskSet (ofsImm ofs) s)

/-- MASK_SET OFF (R79). -/
def execMaskSetOff (s : State) : Host.Outcome State Fault Refusal :=
  complete (encode .maskSetOff) s (maskSet (ofsReg s) s)

/-- MASK_CLRB #ofs (R80). -/
def execMaskClrbImm (ofs : Byte) (s : State) : Host.Outcome State Fault Refusal :=
  complete (encode (.maskClrbImm ofs)) s (maskClrb (ofsImm ofs) s)

/-- MASK_CLRB OFF (R80). -/
def execMaskClrbOff (s : State) : Host.Outcome State Fault Refusal :=
  complete (encode .maskClrbOff) s (maskClrb (ofsReg s) s)

/-- MASK_TEST #ofs (R81). -/
def execMaskTestImm (ofs : Byte) (s : State) : Host.Outcome State Fault Refusal :=
  complete (encode (.maskTestImm ofs)) s (maskTest (ofsImm ofs) s)

/-- MASK_TEST OFF (R81). -/
def execMaskTestOff (s : State) : Host.Outcome State Fault Refusal :=
  complete (encode .maskTestOff) s (maskTest (ofsReg s) s)

/-- MASK_CNT: RES is the number of set bits (R82). -/
def execMaskCnt (s : State) : Host.Outcome State Fault Refusal :=
  complete (encode .maskCnt) s (.ok { s with res := BitVec.ofNat 32 (popcount s.mask) })

/-- MASK_FIRST: RES is the lowest set offset and NONE is 0, or both say that there is none (R83). -/
def execMaskFirst (s : State) : Host.Outcome State Fault Refusal :=
  complete (encode .maskFirst) s
    (.ok (match firstSet s.mask with
      | none => { s with res := 0, flagNone := true }
      | some i => { s with res := BitVec.ofNat 32 i, flagNone := false }))

/-- MASK_ISLONG #gs, #mo (R84). -/
def execMaskIslongImm (gs : Byte) (mo : Half) (s : State) : Host.Outcome State Fault Refusal :=
  complete (encode (.maskIslongImm gs mo)) s (.ok (setIslong (isLongFor (gsImm gs) mo.toNat) s))

/-- MASK_ISLONG ACC (R84). -/
def execMaskIslongAcc (s : State) : Host.Outcome State Fault Refusal :=
  complete (encode .maskIslongAcc) s (.ok (setIslong (isLongFor (gsReg s) (moReg s)) s))

/-- MASK_ENC: the wire form of MASK to MW (R85). -/
def execMaskEnc (s : State) : Host.Outcome State Fault Refusal :=
  complete (encode .maskEnc) s
    (if maskDoesNotFit s then .error .offsetRange
     else .ok { s with mw := mwOf (maskWire s.mask s.islong) })

/-- MASK_DEC: the wire form in MW to MASK (R86). -/
def execMaskDec (s : State) : Host.Outcome State Fault Refusal :=
  complete (encode .maskDec) s
    (.ok { s with
      mask := maskRead s.mw[0] s.mw[1] s.mw[2] s.mw[3] s.mw[4] s.mw[5] s.islong })

end Sys2Proof.Machine
end

