-- ==== Sys2Proof/Machine/FecPacket.lean ====
section
/-! DEFINITION. The FEC packet assembler, disassembler and the recovery (spec/30_encoding.md R61 to R68; 46_fec_header.md R94 to R98). -/

namespace Sys2Proof.Machine

/-! ### Sizes and padding (R65, R67, R68) -/

/-- `ML`: the mask field's length (R65). -/
def maskLen (long : Bool) : Nat := if long then 6 else 2

/-- `L0 = 24 + ML + protLen`: the unpadded length (R67). -/
def unpaddedLen (long : Bool) (prot : Nat) : Nat := 24 + maskLen long + prot

/-- `p = (4 - (L0 mod 4)) mod 4` (R95). -/
def padCount (l0 : Nat) : Nat := (4 - l0 % 4) % 4

/-- `N`: the assembled length (R67, R95). -/
def assembledLen (style : Config.PadStyle) (l0 : Nat) : Nat :=
  if padCount l0 = 0 then l0
  else match style with
    | .align => l0 + padCount l0
    | .single => l0 + 1

/-- The padding bytes for `p` (R67). -/
def padBytes (style : Config.PadStyle) (p : Nat) : List Byte :=
  if p = 0 then []
  else match style with
    | .align => List.replicate (p - 1) 0 ++ [BitVec.ofNat 8 p]
    | .single => [BitVec.ofNat 8 p]

/-- `padflag`, at the place that `P_PAD_FLAG_LOC` selects (R63, R67, R95). -/
def padFlagAt (loc here : Config.PadFlagLoc) (p : Nat) : Byte :=
  if loc = here ∧ p ≠ 0 then 0x20 else 0

/-! ### FEC_ASM (R95) -/

/-- Bytes 0-11: the RTP-shaped header (R61). -/
def fecRtpHeader (loc : Config.PadFlagLoc) (p : Nat) (s : State) : List Byte :=
  [Config.fecB0 ||| padFlagAt loc .rtpByte0 p, 0x80 ||| s.fecPt.setWidth 8]
    ++ toBE16 s.fecSeq ++ toBE32 s.lastTs ++ toBE32 s.lastSsrc

/-- Byte 12: L in bit 6 and the XOR of bits 5:0 of byte 0 (R62, R63). -/
def fecFlagsByte (loc : Config.PadFlagLoc) (p : Nat) (s : State) : Byte :=
  (if s.islong then (0x40 : Byte) else 0) ||| (s.hacc[0] &&& 0x3F) ||| padFlagAt loc .fecByte12 p

/-- Bytes 12-21: the 10-byte FEC header (R62). -/
def fecHeader (loc : Config.PadFlagLoc) (p : Nat) (s : State) : List Byte :=
  [fecFlagsByte loc p s, s.hacc[1]] ++ toBE16 s.snbase
    ++ [s.hacc[4], s.hacc[5], s.hacc[6], s.hacc[7], s.hacc[8], s.hacc[9]]

/-- The whole FEC packet: headers, protection length, mask, payload and padding (R61 to R67, R95). -/
def fecPacket (style : Config.PadStyle) (loc : Config.PadFlagLoc) (s : State) : List Byte :=
  fecRtpHeader loc (padCount (unpaddedLen s.islong s.pmax.toNat)) s
    ++ fecHeader loc (padCount (unpaddedLen s.islong s.pmax.toNat)) s
    ++ toBE16 s.pmax ++ maskWire s.mask s.islong ++ paccBytesTo s s.pmax.toNat
    ++ padBytes style (padCount (unpaddedLen s.islong s.pmax.toNat))

/-- The length of the packet that FEC_ASM assembles under a padding style. -/
def fecPacketLen (style : Config.PadStyle) (s : State) : Nat :=
  assembledLen style (unpaddedLen s.islong s.pmax.toNat)

/-- The updates of FEC_ASM (R95). -/
def fecEmit (style : Config.PadStyle) (loc : Config.PadFlagLoc) (s : State) : State :=
  { s with
    mem := memWriteBytes s.mem Config.outBase (fecPacket style loc s)
    outLen := BitVec.ofNat 16 (fecPacketLen style s)
    res := BitVec.ofNat 32 (fecPacketLen style s)
    fecSeq := s.fecSeq + 1 }

/-- The checks of FEC_ASM in their order, then its updates (R95, R108). -/
def fecAssemble (style : Config.PadStyle) (loc : Config.PadFlagLoc) (s : State) :
    Except ErrCode State :=
  if s.fcnt = 0 then .error .zeroGroup
  else if maskDoesNotFit s then .error .offsetRange
  else if Config.outBytes < fecPacketLen style s then .error .invalidLen
  else .ok (fecEmit style loc s)

/-- FEC_ASM (R95). -/
def execFecAsm (s : State) : Host.Outcome State Fault Refusal :=
  complete (encode .fecAsm) s (fecAssemble Config.padStyle Config.padFlagLoc s)

/-! ### FEC_PARSE (R97) -/

/-- `L`: bit 6 of byte 12 (R63, R97). -/
def fecLongFlag (s : State) : Bool := (inByte s 12).getLsbD 6

/-- `pl`: the protection length field (R64, R97). -/
def fecProtLen (s : State) : Nat := (inBE16 s 22).toNat

/-- The wire bytes of the mask field (R65, R97). -/
def fecMaskBytes (s : State) : List Byte := inBytesFrom s 24 (maskLen (fecLongFlag s))

/-- HACC seeded with the packet's stored header fields (R97). -/
def fecHaccLoaded (s : State) : Vector Byte 10 :=
  #v[inByte s 12 &&& 0x3F, inByte s 13, 0, 0, inByte s 16, inByte s 17, inByte s 18, inByte s 19,
     inByte s 20, inByte s 21]

/-- The updates of FEC_PARSE (R97; PMAX too, log 4). -/
def fecLoad (s : State) : State :=
  { s with
    islong := fecLongFlag s
    snbase := inBE16 s 14
    snbValid := true
    mw := mwOf (fecMaskBytes s)
    mask := maskRead (inByte s 24) (inByte s 25) (inByte s 26) (inByte s 27) (inByte s 28)
      (inByte s 29) (fecLongFlag s)
    hacc := fecHaccLoaded s
    mem := memWriteBytes (memClearPacc s.mem) Config.paccBase
      (inBytesFrom s (24 + maskLen (fecLongFlag s)) (fecProtLen s))
    prot := BitVec.ofNat 16 (fecProtLen s)
    pmax := BitVec.ofNat 16 (fecProtLen s)
    fcnt := 0
    fecSsrc := inBE32 s 8 }

/-- The checks of FEC_PARSE in their order, then its updates (R97, R108). -/
def fecDisassemble (s : State) : Except ErrCode State :=
  if s.inLen.toNat < Config.minLen ∨ Config.maxDecLen < s.inLen.toNat then .error .invalidLen
  else if s.inLen.toNat < 26 then .error .malformedFec
  else if s.inLen.toNat < 24 + maskLen (fecLongFlag s) then .error .malformedFec
  else if s.inLen.toNat < 24 + maskLen (fecLongFlag s) + fecProtLen s then .error .malformedFec
  else .ok (fecLoad s)

/-- FEC_PARSE (R97). -/
def execFecParse (s : State) : Host.Outcome State Fault Refusal :=
  complete (encode .fecParse) s (fecDisassemble s)

/-! ### RECOVER (R98) -/

/-- `bl`: the recovered payload length (R98). -/
def recoveredLen (s : State) : Nat := (be16 s.hacc[8] s.hacc[9]).toNat

/-- The recovered packet for the missing offset `i` (R98). -/
def recoveredPacket (i : Nat) (s : State) : List Byte :=
  [Config.recovVbits.setWidth 8 <<< 6 ||| (s.hacc[0] &&& 0x3F), s.hacc[1]]
    ++ toBE16 (s.snbase + BitVec.ofNat 16 i)
    ++ [s.hacc[4], s.hacc[5], s.hacc[6], s.hacc[7]] ++ toBE32 s.fecSsrc
    ++ paccBytesTo s (recoveredLen s)

/-- The updates of RECOVER when offset `i` is missing (R98). -/
def recoverEmit (i : Nat) (s : State) : State :=
  { s with
    mem := memWriteBytes s.mem Config.outBase (recoveredPacket i s)
    outLen := BitVec.ofNat 16 (Config.hdrLen + recoveredLen s)
    flagNone := false
    res := 1 }

/-- The decision on the remaining mask, then the updates (R98, R108). -/
def recoverMissing (s : State) : Except ErrCode State :=
  if 1 < popcount s.mask then .error .unrecoverable
  else match firstSet s.mask with
    | none => .ok { s with flagNone := true, res := 0 }
    | some i =>
      if s.prot.toNat < recoveredLen s then .error .malformedFec else .ok (recoverEmit i s)

/-- RECOVER (R98). -/
def execRecover (s : State) : Host.Outcome State Fault Refusal :=
  complete (encode .recover) s (recoverMissing s)

end Sys2Proof.Machine
end

