-- ==== Sys2Proof/Machine/RtpExtract.lean ====
section
/-! DEFINITION. The RTP header field extractor (spec/45_rtp_extract.md R92, R93). -/

namespace Sys2Proof.Machine

/-- The field registers, ISFEC and RES for the packet of length `len` in IN (R92). -/
def rtpFields (len : Nat) (s : State) : State :=
  { s with
    rtpB0 := inByte s 0
    rtpB1 := inByte s 1
    rtpSn := inBE16 s 2
    rtpTs := inBE32 s 4
    rtpSsrc := inBE32 s 8
    rtpPlen := BitVec.ofNat 16 (len - Config.hdrLen)
    flagIsfec := isFecCandidate s.fecPt (inByte s 1)
    res := flagWord (isFecCandidate s.fecPt (inByte s 1)) }

/-- RTP_PARSE enc|dec (R92). -/
def execRtpParse (lim : Limit) (s : State) : Host.Outcome State Fault Refusal :=
  complete (encode (.rtpParse lim)) s
    (match lenchk lim s with
     | .ok len => .ok (rtpFields len s)
     | .error c => .error c)

end Sys2Proof.Machine
end

