-- ==== Sys2Proof/Machine/SeqNum.lean ====
section
/-! DEFINITION. The sequence-number comparator (spec/44_seqnum.md R87 to R91). -/

namespace Sys2Proof.Machine

/-- `offset(sn) = (sn - SNBASE) mod 2^16` (R87). -/
def offsetOf (sn base : Half) : Half := sn - base

/-- OFF, INWIN and RES for a sequence number (R89). -/
def snOff (sn : Half) (s : State) : State :=
  { s with
    off := offsetOf sn s.snbase
    flagInwin := inWindow s.islong (offsetOf sn s.snbase)
    res := (offsetOf sn s.snbase).setWidth 32 }

/-- `RES <- zext_32((SNBASE + k) mod 2^16)` (R90). -/
def snAdd (k : Half) (s : State) : State := { s with res := (s.snbase + k).setWidth 32 }

/-- `SNBASE <- sn; SNB_VALID <- 1` (R91). -/
def snSetbase (sn : Half) (s : State) : State := { s with snbase := sn, snbValid := true }

/-- SN_OFF #sn (R89). -/
def execSnOffImm (sn : Half) (s : State) : Host.Outcome State Fault Refusal :=
  complete (encode (.snOffImm sn)) s (.ok (snOff sn s))

/-- SN_OFF RTP (R89). -/
def execSnOffRtp (s : State) : Host.Outcome State Fault Refusal :=
  complete (encode .snOffRtp) s (.ok (snOff (snReg s) s))

/-- SN_ADD #k (R90). -/
def execSnAddImm (k : Half) (s : State) : Host.Outcome State Fault Refusal :=
  complete (encode (.snAddImm k)) s (.ok (snAdd k s))

/-- SN_ADD OFF (R90). -/
def execSnAddOff (s : State) : Host.Outcome State Fault Refusal :=
  complete (encode .snAddOff) s (.ok (snAdd (addendReg s) s))

/-- SN_SETBASE #sn (R91). -/
def execSnSetbaseImm (sn : Half) (s : State) : Host.Outcome State Fault Refusal :=
  complete (encode (.snSetbaseImm sn)) s (.ok (snSetbase sn s))

/-- SN_SETBASE RTP (R91). -/
def execSnSetbaseRtp (s : State) : Host.Outcome State Fault Refusal :=
  complete (encode .snSetbaseRtp) s (.ok (snSetbase (snReg s) s))

end Sys2Proof.Machine
end

