-- ==== Sys2Proof/Machine/Dispatch.lean ====
section
/-! DEFINITION. The meaning of a command: one arm per row of spec/opcode_table.json. -/

namespace Sys2Proof.Machine

def exec (i : Instr) (s : State) : Host.Outcome State Fault Refusal :=
  match i with
  -- control and context
  | .nop => Sys2Proof.Machine.execNop s
  | .ctxNew pt => Sys2Proof.Machine.execCtxNew pt s
  | .statClr => Sys2Proof.Machine.execStatClr s
  -- accumulator
  | .accClr => Sys2Proof.Machine.execAccClr s
  | .accFoldHdr lim => Sys2Proof.Machine.execAccFoldHdr lim s
  | .accFoldPay lim => Sys2Proof.Machine.execAccFoldPay lim s
  | .accFold lim => Sys2Proof.Machine.execAccFold lim s
  -- mask
  | .maskClr => Sys2Proof.Machine.execMaskClr s
  | .maskSetImm ofs => Sys2Proof.Machine.execMaskSetImm ofs s
  | .maskSetOff => Sys2Proof.Machine.execMaskSetOff s
  | .maskClrbImm ofs => Sys2Proof.Machine.execMaskClrbImm ofs s
  | .maskClrbOff => Sys2Proof.Machine.execMaskClrbOff s
  | .maskTestImm ofs => Sys2Proof.Machine.execMaskTestImm ofs s
  | .maskTestOff => Sys2Proof.Machine.execMaskTestOff s
  | .maskCnt => Sys2Proof.Machine.execMaskCnt s
  | .maskFirst => Sys2Proof.Machine.execMaskFirst s
  | .maskIslongImm gs mo => Sys2Proof.Machine.execMaskIslongImm gs mo s
  | .maskIslongAcc => Sys2Proof.Machine.execMaskIslongAcc s
  | .maskEnc => Sys2Proof.Machine.execMaskEnc s
  | .maskDec => Sys2Proof.Machine.execMaskDec s
  -- sequence-number comparator
  | .snOffImm sn => Sys2Proof.Machine.execSnOffImm sn s
  | .snOffRtp => Sys2Proof.Machine.execSnOffRtp s
  | .snAddImm k => Sys2Proof.Machine.execSnAddImm k s
  | .snAddOff => Sys2Proof.Machine.execSnAddOff s
  | .snSetbaseImm sn => Sys2Proof.Machine.execSnSetbaseImm sn s
  | .snSetbaseRtp => Sys2Proof.Machine.execSnSetbaseRtp s
  -- RTP header field extractor
  | .rtpParse lim => Sys2Proof.Machine.execRtpParse lim s
  -- FEC packet assembler, disassembler and recovery
  | .fecAsm => Sys2Proof.Machine.execFecAsm s
  | .fecParse => Sys2Proof.Machine.execFecParse s
  | .recover => Sys2Proof.Machine.execRecover s

end Sys2Proof.Machine
end

