-- ==== Sys2Proof/Machine/Command.lean ====
section
/-! DEFINITION. Executing the word written to CMD (spec/30_encoding.md R56, R57; 60_exceptions.md R107, R108). -/

namespace Sys2Proof.Machine

/-- A word written to CMD: an illegal word raises ILLEGAL_CMD, a legal one runs its command (R57). -/
def runCommand (w : Word) (s : State) : Host.Outcome State Fault Refusal :=
  match decode w with
  | .ok i => exec i s
  | .error _ => .next (raiseErr w .illegalCmd s)

end Sys2Proof.Machine
end

