-- ==== Sys2Proof/Machine/Step.lean ====
section
/-! DEFINITION. One step: the block serves the oldest waiting host event (spec/20_memory.md R46, R47). -/

namespace Sys2Proof.Machine

/-- Serve the oldest host event; a word written to CMD runs to completion within the step (R3, R46). -/
def step (s : State) : Host.Outcome State Fault Refusal :=
  match serve s with
  | .settled t => .next t
  | .command w t => runCommand w t

/-- The state in which the host's next access writes this instruction's word to CMD; the accesses that
already wait come after it (log 2). -/
def State.withFetchWord (s : State) (nbits w : Nat) : State :=
  { s with
    host := .write .b32 (BitVec.ofNat 16 cmdAddr) (BitVec.ofNat 32 (w % 2 ^ nbits)) :: s.host }

end Sys2Proof.Machine
end

