-- ==== Sys2Proof/Machine/Assembler.lean ====
section
/-! DEFINITION. Assembler syntax over tokens and the pseudo-commands (spec/30_encoding.md R58, R59). -/

namespace Sys2Proof.Machine

/-- An operand as the assembler's line spells it (R58). -/
inductive AsmOperand where
  /-- `#n`. -/
  | imm (n : Nat)
  /-- `enc`: LIM = 1. -/
  | enc
  /-- `dec`: LIM = 0. -/
  | dec
  /-- `OFF`. -/
  | off
  /-- `RTP`. -/
  | rtp
  /-- `ACC`. -/
  | acc
  deriving DecidableEq, Repr

/-- One line: the mnemonic and its operands (R58). -/
structure AsmLine where
  mnemonic : String
  operands : List AsmOperand
  deriving DecidableEq, Repr

/-- A command without operands. -/
def asmZ (i : Instr) : List AsmOperand → Option Instr
  | [] => some i
  | _ => none

/-- `enc|dec`. -/
def asmL (f : Limit → Instr) : List AsmOperand → Option Instr
  | [.enc] => some (f .enc)
  | [.dec] => some (f .dec)
  | _ => none

/-- `#pt`, at most 127. -/
def asmP (f : Byte → Instr) : List AsmOperand → Option Instr
  | [.imm n] => if n ≤ 127 then some (f (BitVec.ofNat 8 n)) else none
  | _ => none

/-- `#ofs | OFF`, the immediate at most 63. -/
def asmO (f : Byte → Instr) (reg : Instr) : List AsmOperand → Option Instr
  | [.imm n] => if n ≤ 63 then some (f (BitVec.ofNat 8 n)) else none
  | [.off] => some reg
  | _ => none

/-- `#gs, #mo | ACC`, the immediates at most 127 and 65535. -/
def asmG (f : Byte → Half → Instr) (reg : Instr) : List AsmOperand → Option Instr
  | [.imm g, .imm m] =>
    if g ≤ 127 ∧ m ≤ 65535 then some (f (BitVec.ofNat 8 g) (BitVec.ofNat 16 m)) else none
  | [.acc] => some reg
  | _ => none

/-- `#n | <register>`, the immediate at most 65535. -/
def asmN (f : Half → Instr) (name : AsmOperand) (reg : Instr) : List AsmOperand → Option Instr
  | [.imm n] => if n ≤ 65535 then some (f (BitVec.ofNat 16 n)) else none
  | [o] => if o = name then some reg else none
  | _ => none

/-- The command that a line spells, or an assembly error (R58). -/
def assemble (l : AsmLine) : Option Instr :=
  match l.mnemonic with
  | "NOP" => asmZ .nop l.operands
  | "CTX_NEW" => asmP .ctxNew l.operands
  | "STAT_CLR" => asmZ .statClr l.operands
  | "ACC_CLR" => asmZ .accClr l.operands
  | "ACC_FOLD_HDR" => asmL .accFoldHdr l.operands
  | "ACC_FOLD_PAY" => asmL .accFoldPay l.operands
  | "ACC_FOLD" => asmL .accFold l.operands
  | "MASK_CLR" => asmZ .maskClr l.operands
  | "MASK_SET" => asmO .maskSetImm .maskSetOff l.operands
  | "MASK_CLRB" => asmO .maskClrbImm .maskClrbOff l.operands
  | "MASK_TEST" => asmO .maskTestImm .maskTestOff l.operands
  | "MASK_CNT" => asmZ .maskCnt l.operands
  | "MASK_FIRST" => asmZ .maskFirst l.operands
  | "MASK_ISLONG" => asmG .maskIslongImm .maskIslongAcc l.operands
  | "MASK_ENC" => asmZ .maskEnc l.operands
  | "MASK_DEC" => asmZ .maskDec l.operands
  | "SN_OFF" => asmN .snOffImm .rtp .snOffRtp l.operands
  | "SN_ADD" => asmN .snAddImm .off .snAddOff l.operands
  | "SN_SETBASE" => asmN .snSetbaseImm .rtp .snSetbaseRtp l.operands
  | "RTP_PARSE" => asmL .rtpParse l.operands
  | "FEC_ASM" => asmZ .fecAsm l.operands
  | "FEC_PARSE" => asmZ .fecParse l.operands
  | "RECOVER" => asmZ .recover l.operands
  | _ => none

/-- The operand that spells LIM. -/
def limOperand : Limit → AsmOperand
  | .enc => .enc
  | .dec => .dec

/-- The line that spells a command (R58). -/
def asmLine (i : Instr) : AsmLine :=
  match i with
  | .nop => ⟨"NOP", []⟩
  | .ctxNew pt => ⟨"CTX_NEW", [.imm pt.toNat]⟩
  | .statClr => ⟨"STAT_CLR", []⟩
  | .accClr => ⟨"ACC_CLR", []⟩
  | .accFoldHdr lim => ⟨"ACC_FOLD_HDR", [limOperand lim]⟩
  | .accFoldPay lim => ⟨"ACC_FOLD_PAY", [limOperand lim]⟩
  | .accFold lim => ⟨"ACC_FOLD", [limOperand lim]⟩
  | .maskClr => ⟨"MASK_CLR", []⟩
  | .maskSetImm ofs => ⟨"MASK_SET", [.imm ofs.toNat]⟩
  | .maskSetOff => ⟨"MASK_SET", [.off]⟩
  | .maskClrbImm ofs => ⟨"MASK_CLRB", [.imm ofs.toNat]⟩
  | .maskClrbOff => ⟨"MASK_CLRB", [.off]⟩
  | .maskTestImm ofs => ⟨"MASK_TEST", [.imm ofs.toNat]⟩
  | .maskTestOff => ⟨"MASK_TEST", [.off]⟩
  | .maskCnt => ⟨"MASK_CNT", []⟩
  | .maskFirst => ⟨"MASK_FIRST", []⟩
  | .maskIslongImm gs mo => ⟨"MASK_ISLONG", [.imm gs.toNat, .imm mo.toNat]⟩
  | .maskIslongAcc => ⟨"MASK_ISLONG", [.acc]⟩
  | .maskEnc => ⟨"MASK_ENC", []⟩
  | .maskDec => ⟨"MASK_DEC", []⟩
  | .snOffImm sn => ⟨"SN_OFF", [.imm sn.toNat]⟩
  | .snOffRtp => ⟨"SN_OFF", [.rtp]⟩
  | .snAddImm k => ⟨"SN_ADD", [.imm k.toNat]⟩
  | .snAddOff => ⟨"SN_ADD", [.off]⟩
  | .snSetbaseImm sn => ⟨"SN_SETBASE", [.imm sn.toNat]⟩
  | .snSetbaseRtp => ⟨"SN_SETBASE", [.rtp]⟩
  | .rtpParse lim => ⟨"RTP_PARSE", [limOperand lim]⟩
  | .fecAsm => ⟨"FEC_ASM", []⟩
  | .fecParse => ⟨"FEC_PARSE", []⟩
  | .recover => ⟨"RECOVER", []⟩

/-- The pseudo-commands (R59). -/
inductive Pseudo where
  | groupBegin
  | foldEnc
  | emit
  deriving DecidableEq, Repr

/-- The expansion of a pseudo-command (R59). -/
def Pseudo.expand : Pseudo → List Instr
  | .groupBegin => [.accClr, .maskClr]
  | .foldEnc => [.rtpParse .enc, .accFold .enc, .snOffRtp, .maskSetOff]
  | .emit => [.maskIslongAcc, .fecAsm]

end Sys2Proof.Machine
end

