-- ==== Sys2Proof/Safety.lean ====
section
/-! DEFINITION. What counts as a good state and a safe run, in the terms the statements use. -/

namespace Sys2Proof.Machine

/-- The state after a command that fails with a code: the state before it plus the error record (R106, R107). -/
def errorRecord (w : Word) (code : BitVec 4) (s : State) : State :=
  { s with
    err := code
    flagSticky := true
    errcmd := if s.flagSticky then s.errcmd else w }

/-- The length in IN_LEN passes the check that LIM selects (R54, R72). -/
def PacketOk (lim : Limit) (s : State) : Prop :=
  12 ≤ s.inLen.toNat ∧ s.inLen.toNat ≤ (match lim with | .dec => 1472 | .enc => 1442)

/-- The mask fits the selected width: in the short form no offset above 15 is covered (R85, R95). -/
def MaskFits (s : State) : Prop := s.islong = false → ∀ i, 16 ≤ i → s.mask.getLsbD i = false

/-- `ML` (R65). -/
def mlOf (long : Bool) : Nat := if long then 6 else 2

/-- `L0` of the packet that FEC_ASM would assemble (R67). -/
def asmL0 (s : State) : Nat := 24 + mlOf s.islong + s.pmax.toNat

/-- The number of padding bytes that bring a length to a multiple of 4 (R67). -/
def padTo4 (l0 : Nat) : Nat := if l0 % 4 = 0 then 0 else 4 - l0 % 4

/-- The codes a command may leave in STATUS.ERR: 0 and those the table of R104 gives it. -/
def raisableBy (i : Instr) : List (BitVec 4) :=
  match i with
  | .accFoldHdr _ | .accFoldPay _ | .accFold _ | .rtpParse _ => [0, 2]
  | .maskSetImm _ | .maskSetOff | .maskClrbImm _ | .maskClrbOff | .maskTestImm _ | .maskTestOff
  | .maskEnc => [0, 3]
  | .fecAsm => [0, 2, 3, 4]
  | .fecParse => [0, 2, 5]
  | .recover => [0, 5, 6]
  | .nop | .ctxNew _ | .statClr | .accClr | .maskClr | .maskCnt | .maskFirst | .maskIslongImm _ _
  | .maskIslongAcc | .maskDec | .snOffImm _ | .snOffRtp | .snAddImm _ | .snAddOff
  | .snSetbaseImm _ | .snSetbaseRtp => [0]

/-- The address is one of a buffer's: IN, OUT or PACC (R35). -/
def BufferAddr (a : Nat) : Prop :=
  (0x1000 ≤ a ∧ a ≤ 0x15BF) ∨ (0x2000 ≤ a ∧ a ≤ 0x25BF) ∨ (0x3000 ≤ a ∧ a ≤ 0x35B3)

/-- The reads that R43 calls legal. -/
def LegalRead (w : Width) (a : Nat) : Prop :=
  match w with
  | .b8 => BufferAddr a
  | .b16 => False
  | .b32 => a % 4 = 0 ∧ (a ≤ 0x0063 ∨ BufferAddr a)

/-- The writes that R43 calls legal: the writable registers CMD, IN_LEN, MW_LO, MW_HI of R36, and IN. -/
def LegalWrite (w : Width) (a : Nat) : Prop :=
  match w with
  | .b8 => 0x1000 ≤ a ∧ a ≤ 0x15BF
  | .b16 => False
  | .b32 =>
    a % 4 = 0 ∧ (a = 0x0000 ∨ a = 0x0010 ∨ a = 0x002C ∨ a = 0x0030 ∨ (0x1000 ≤ a ∧ a ≤ 0x15BF))

/-- What every run from reset keeps of the buffers, the lengths and the accumulator. -/
structure BlockInv (s : State) : Prop where
  /-- The buffer memory is in its canonical form. -/
  memWf : Memory.wf s.mem = true
  /-- No byte outside IN, OUT and PACC was ever written: no command overruns its buffer (R37 to R39, R50). -/
  memInside : ∀ c ∈ s.mem, BufferAddr c.1
  /-- PMAX fits the accumulator (R72, R75). -/
  pmaxFits : s.pmax.toNat ≤ 1460
  /-- PROT is at most 1472 - 26 (R97). -/
  protFits : s.prot.toNat ≤ 1446
  /-- The packet in OUT fits OUT (R38, R95, R98). -/
  outLenFits : s.outLen.toNat ≤ 1472
  /-- PACC bytes at or above PMAX are 0 (R75). -/
  paccAbovePmax : ∀ j, s.pmax.toNat ≤ j → j < 1460 → paccByte s j = 0
  /-- A header fold since the last clear has set the group's base (R24). -/
  foldedHasBase : s.fcnt ≠ 0 → s.snbValid = true

/-- What every run from reset keeps of the error record. -/
structure ErrorRecordInv (s : State) : Prop where
  /-- Codes 7 to 15 are never raised (R104, R105). -/
  codeAssigned : s.err.toNat ≤ 6
  /-- A failure is latched in STICKY until STAT_CLR (R27, R107). -/
  errorIsSticky : s.err ≠ 0 → s.flagSticky = true
  /-- ERRCMD is 0 while no error has occurred since the last STAT_CLR or reset (93 V5). -/
  noErrorNoCommand : s.flagSticky = false → s.errcmd = 0

end Sys2Proof.Machine
end

