-- ==== Sys2Proof/Certificates/Slice0/Obligations.lean ====
section
/-! DEFINITION. The statements for the provers, one definition each, from the numbered rules of spec/. -/

open Sys2Proof Sys2Proof.Machine

/-! ### Encoding -/

/-- Every well-formed command is decoded from its own word: no operand bit of an encoding is dropped
(30_encoding.md Part A). -/
def Obligations.DecodeEncodeAgree : Prop :=
  ∀ i : Instr, WellFormed i → decode (encode i) = .ok i

/-- Every legal word is spelled by exactly the well-formed command it decodes to (30_encoding.md Part A). -/
def Obligations.EncodeDecodeAgree : Prop :=
  ∀ (w : Word) (i : Instr), decode w = .ok i → WellFormed i ∧ encode i = w

/-- R56: a word is legal exactly when it spells a row of the table; it spells the row of the form it decodes to;
and it spells at most one row. -/
def Obligations.LegalWordsSpellOneTableRow : Prop :=
  ∀ w : Word,
    ((∃ i, decode w = .ok i) ↔ ∃ r ∈ opcodeTable, r.spelledBy w = true) ∧
    (∀ i, decode w = .ok i → formRow i ∈ opcodeTable ∧ (formRow i).spelledBy w = true) ∧
    (∀ r ∈ opcodeTable, ∀ r' ∈ opcodeTable,
      r.spelledBy w = true → r'.spelledBy w = true → r = r')

/-- Words written out from R52 and R55, one or more per family, decode to the command they spell. -/
def Obligations.WrittenOutWordsDecode : Prop :=
  decode 0x00000000 = .ok .nop ∧
  decode 0x01780000 = .ok (.ctxNew 120) ∧
  decode 0x13010000 = .ok (.accFold .enc) ∧
  decode 0x21030000 = .ok (.maskSetImm 3) ∧
  decode 0x23800000 = .ok .maskTestOff ∧
  decode 0x26140013 = .ok (.maskIslongImm 20 19) ∧
  decode 0x3000FFF9 = .ok (.snOffImm 65529) ∧
  decode 0x32800000 = .ok .snSetbaseRtp ∧
  decode 0x40000000 = .ok (.rtpParse .dec) ∧
  decode 0x52000000 = .ok .recover ∧
  decode 0x21400000 = .error .reservedBitSet ∧
  decode 0x53000000 = .error .unassignedOpcode

/-- R58 over the model's tokens: a line is a mnemonic and operand tokens, a number read from decimal or `0x` digits
being one token, which is the model's choice (log 11). A well-formed command's line of tokens assembles to it, and a line
of tokens that assembles is the one of the well-formed command it gives (so an operand that does not fit is an assembly
error). -/
def Obligations.AssembleAgreesWithSyntax : Prop :=
  (∀ i : Instr, WellFormed i → assemble (asmLine i) = some i) ∧
  (∀ (l : AsmLine) (i : Instr), assemble l = some i → WellFormed i ∧ asmLine i = l)

/-! ### The step -/

/-- A step in which the host writes a legal word to CMD is the execution of the command it decodes to, on the state
with that access taken from the queue. -/
def Obligations.StepRunsTheDecodedCommand : Prop :=
  ∀ (s : State) (rest : List HostEvent) (d : Word) (i : Instr),
    s.host = .write .b32 0x0000 d :: rest → decode d = .ok i →
    step s = exec i { s with host := rest }

/-- R57: a word that spells no row of the table raises ILLEGAL_CMD and changes nothing but the error record. -/
def Obligations.IllegalWordRaisesIllegalCmd : Prop :=
  ∀ (s : State) (rest : List HostEvent) (d : Word),
    s.host = .write .b32 0x0000 d :: rest → (∀ r ∈ opcodeTable, r.spelledBy d = false) →
    step s = .next (errorRecord d 1 { s with host := rest })

/-- Every step answers a next state: no host event and no command word stops the block (R44, R106, R120). -/
def Obligations.EveryStepCompletes : Prop :=
  ∀ s : State, ∃ t, step s = .next t

/-! ### Errors and flags -/

/-- R106, R107: a command that fails leaves the state before it plus the error record; one that succeeds changes
of the error record only ERR (STAT_CLR, whose own effect is to clear the record, apart). -/
def Obligations.FailureWritesOnlyTheErrorRecord : Prop :=
  ∀ (i : Instr) (s t : State), exec i s = .next t →
    (t.err ≠ 0 → t = errorRecord (encode i) t.err s) ∧
    (t.err = 0 → i ≠ .statClr → t.flagSticky = s.flagSticky ∧ t.errcmd = s.errcmd)

/-- The codes a command leaves in ERR are 0 and those the table of R104 gives it; OUT_OF_MEMORY and the
reserved codes are never among them (R104, R105). -/
def Obligations.CommandsRaiseOnlyTheirCodes : Prop :=
  ∀ (i : Instr) (s t : State), exec i s = .next t → t.err ∈ raisableBy i ∧ t.err.toNat ≤ 6

/-- R28 with R27: each of NONE, INWIN, ISFEC and BIT is written only by the commands R27 lists for it; and no command
reads any of them: from a state with other flags a command makes the same changes, and a flag that it writes when it
succeeds gets the same value. -/
def Obligations.FlagsReadByNoneWrittenByTheirOwn : Prop :=
  (∀ (i : Instr) (s t : State), exec i s = .next t →
    ((i ≠ .maskFirst ∧ i ≠ .recover → t.flagNone = s.flagNone) ∧
     ((∀ sn, i ≠ .snOffImm sn) ∧ i ≠ .snOffRtp → t.flagInwin = s.flagInwin) ∧
     ((∀ lim, i ≠ .rtpParse lim) → t.flagIsfec = s.flagIsfec) ∧
     ((∀ ofs, i ≠ .maskTestImm ofs) ∧ i ≠ .maskTestOff → t.flagBit = s.flagBit))) ∧
  (∀ (i : Instr) (s t : State) (n w f b : Bool), exec i s = .next t →
    ∃ t', exec i { s with flagNone := n, flagInwin := w, flagIsfec := f, flagBit := b } = .next t' ∧
      { t' with
        flagNone := t.flagNone, flagInwin := t.flagInwin, flagIsfec := t.flagIsfec,
        flagBit := t.flagBit } = t ∧
      (t.err = 0 →
        (i = .maskFirst ∨ i = .recover → t'.flagNone = t.flagNone) ∧
        ((∃ sn, i = .snOffImm sn) ∨ i = .snOffRtp → t'.flagInwin = t.flagInwin) ∧
        ((∃ lim, i = .rtpParse lim) → t'.flagIsfec = t.flagIsfec) ∧
        ((∃ ofs, i = .maskTestImm ofs) ∨ i = .maskTestOff → t'.flagBit = t.flagBit)))

/-- R27: bit by bit, the STATUS word that the host reads at 0x0004. -/
def Obligations.StatusWordLayout : Prop :=
  ∀ (s : State) (k : Nat), k < 32 →
    (regWord s 0x0004).getLsbD k =
      if k < 4 then s.err.getLsbD k
      else if k = 4 then s.flagNone
      else if k = 5 then s.flagInwin
      else if k = 6 then s.flagIsfec
      else if k = 7 then s.flagBit
      else if k = 8 then s.flagBuserr
      else if k = 15 then s.flagSticky
      else false

/-! ### Invariants -/

/-- Every step keeps the buffers' canonical form and bounds, the bounds of PMAX, PROT and OUT_LEN, PACC zero above
PMAX, and a base for a folded group. -/
def Obligations.EveryStepKeepsBlockInv : Prop :=
  ∀ s t : State, BlockInv s → step s = .next t → BlockInv t

/-- The invariant of the buffers and lengths holds after reset. -/
def Obligations.BlockInvAtReset : Prop := BlockInv State.reset

/-- Every step keeps the error record consistent: an assigned code, latched while it stands, and ERRCMD 0 while
nothing is latched. -/
def Obligations.EveryStepKeepsErrorRecordInv : Prop :=
  ∀ s t : State, ErrorRecordInv s → step s = .next t → ErrorRecordInv t

/-- The error record's invariant holds after reset. -/
def Obligations.ErrorRecordInvAtReset : Prop := ErrorRecordInv State.reset

/-! ### The host bus and reset -/

/-- R44, over the legal accesses of R43: an illegal read returns 0, an illegal write writes nothing, either sets
BUSERR and changes nothing else, and a step clears BUSERR only by a reset or by STAT_CLR. -/
def Obligations.IllegalAccessSetsOnlyBuserr : Prop :=
  (∀ (s : State) (rest : List HostEvent) (w : Width) (a : BitVec 16) (d : Word),
    (s.host = .read w a :: rest → ¬ LegalRead w a.toNat →
      step s = .next { s with host := rest, flagBuserr := true, busData := 0 }) ∧
    (s.host = .write w a d :: rest → ¬ LegalWrite w a.toNat →
      step s = .next { s with host := rest, flagBuserr := true })) ∧
  (∀ s t : State, step s = .next t → s.flagBuserr = true → t.flagBuserr = false →
    ∃ e rest, s.host = e :: rest ∧ (e = .reset ∨ e = .write .b32 0x0000 0x02000000))

/-- A legal read changes nothing but the data it returns, which at an address of the register window is that
register's word, and the same read again returns the same data: no read has a side effect (R46). -/
def Obligations.LegalReadsHaveNoSideEffect : Prop :=
  ∀ (s : State) (rest : List HostEvent) (w : Width) (a : BitVec 16),
    s.host = .read w a :: .read w a :: rest → LegalRead w a.toNat →
    ∃ d, step s = .next { s with host := .read w a :: rest, busData := d } ∧
      step { s with host := .read w a :: rest, busData := d } =
        .next { s with host := rest, busData := d } ∧
      (a.toNat ≤ 0x0063 → d = regWord s a.toNat)

/-- R42: a byte read returns the byte in bits 7:0; a word read of a buffer returns its four bytes, the lowest
address in bits 31:24; and a word write to IN is the four byte writes at its addresses. -/
def Obligations.WordAccessIsFourByteAccesses : Prop :=
  ∀ (s : State) (a : BitVec 16) (d : Word), BufferAddr a.toNat →
    (∃ t, step { s with host := [.read .b8 a] } = .next t ∧
      t.busData.toNat = (byteAt s a.toNat).toNat) ∧
    (a.toNat % 4 = 0 → ∃ t, step { s with host := [.read .b32 a] } = .next t ∧
      t.busData.toNat =
        16777216 * (byteAt s a.toNat).toNat + 65536 * (byteAt s (a.toNat + 1)).toNat
          + 256 * (byteAt s (a.toNat + 2)).toNat + (byteAt s (a.toNat + 3)).toNat) ∧
    (a.toNat % 4 = 0 → a.toNat ≤ 0x15BF →
      Sys2Proof.core.run 1 { s with host := [.write .b32 a d] } =
        Sys2Proof.core.run 4 { s with
          host := [.write .b8 a (d >>> 24), .write .b8 (a + 1) (d >>> 16),
                   .write .b8 (a + 2) (d >>> 8), .write .b8 (a + 3) d] })

/-- A byte the host writes to IN reads back, and no other byte of the buffers and no register changes; and a step
changes a byte of IN only if it serves a reset, a byte write to that byte or an aligned word write that covers it, so the
written byte reads back until then (R37, R40, R46). -/
def Obligations.HostByteWriteReadsBack : Prop :=
  (∀ (s : State) (rest : List HostEvent) (a : BitVec 16) (d : Word),
    s.host = .write .b8 a d :: rest → 0x1000 ≤ a.toNat → a.toNat ≤ 0x15BF →
    ∃ t, step s = .next t ∧
      (byteAt t a.toNat).toNat = d.toNat % 256 ∧
      (∀ x, x ≠ a.toNat → byteAt t x = byteAt s x) ∧
      t = { s with host := rest, mem := t.mem }) ∧
  (∀ (s t : State) (x : Nat), step s = .next t → 0x1000 ≤ x → x ≤ 0x15BF → byteAt t x ≠ byteAt s x →
    ∃ e rest, s.host = e :: rest ∧
      (e = .reset ∨
       (∃ a d, e = .write .b8 a d ∧ a.toNat = x) ∨
       (∃ a d, e = .write .b32 a d ∧ a.toNat % 4 = 0 ∧ a.toNat ≤ x ∧ x < a.toNat + 4)))

/-- R31 and R23: what the host writes to IN_LEN, MW_LO and MW_HI reads back without the ignored bits, and
nothing else changes. -/
def Obligations.HostRegisterWritesReadBack : Prop :=
  ∀ (s : State) (rest : List HostEvent) (d : Word),
    (s.host = .write .b32 0x0010 d :: rest → ∃ t, step s = .next t ∧
      (regWord t 0x0010).toNat = d.toNat % 65536 ∧ t.inLen.toNat = d.toNat % 65536 ∧
      t = { s with host := rest, inLen := t.inLen }) ∧
    (s.host = .write .b32 0x002C d :: rest → ∃ t, step s = .next t ∧
      regWord t 0x002C = d ∧ regWord t 0x0030 = regWord s 0x0030 ∧
      t = { s with host := rest, mw := t.mw }) ∧
    (s.host = .write .b32 0x0030 d :: rest → ∃ t, step s = .next t ∧
      (regWord t 0x0030).toNat = d.toNat / 65536 * 65536 ∧ regWord t 0x002C = regWord s 0x002C ∧
      t = { s with host := rest, mw := t.mw })

/-- R36: a word read at an aligned address of the register window returns that register's host word and changes
nothing else; and the host word at every such address, as a number. -/
def Obligations.RegisterWindowContents : Prop :=
  (∀ (s : State) (rest : List HostEvent) (a : BitVec 16),
    s.host = .read .b32 a :: rest → a.toNat % 4 = 0 → a.toNat ≤ 0x0063 →
    step s = .next { s with host := rest, busData := regWord s a.toNat }) ∧
  ∀ s : State,
    (regWord s 0x0000).toNat = 0 ∧
    (regWord s 0x0004).toNat = s.err.toNat + 16 * s.flagNone.toNat + 32 * s.flagInwin.toNat
      + 64 * s.flagIsfec.toNat + 128 * s.flagBit.toNat + 256 * s.flagBuserr.toNat
      + 32768 * s.flagSticky.toNat ∧
    regWord s 0x0008 = s.res ∧ regWord s 0x000C = s.errcmd ∧
    (regWord s 0x0010).toNat = s.inLen.toNat ∧ (regWord s 0x0014).toNat = s.outLen.toNat ∧
    (regWord s 0x0018).toNat = s.fecPt.toNat + 65536 * s.fecSeq.toNat ∧
    (regWord s 0x001C).toNat =
      s.snbase.toNat + 65536 * s.snbValid.toNat + 131072 * s.islong.toNat ∧
    (regWord s 0x0020).toNat = s.off.toNat ∧
    (regWord s 0x0024).toNat = s.mask.toNat % 4294967296 ∧
    (regWord s 0x0028).toNat = s.mask.toNat / 4294967296 ∧
    (regWord s 0x002C).toNat = 16777216 * s.mw[0].toNat + 65536 * s.mw[1].toNat
      + 256 * s.mw[2].toNat + s.mw[3].toNat ∧
    (regWord s 0x0030).toNat = 16777216 * s.mw[4].toNat + 65536 * s.mw[5].toNat ∧
    (regWord s 0x0034).toNat = s.fcnt.toNat + 65536 * s.pmax.toNat ∧
    (regWord s 0x0038).toNat = s.prot.toNat ∧
    (regWord s 0x003C).toNat = s.rtpB0.toNat + 256 * s.rtpB1.toNat + 65536 * s.rtpSn.toNat ∧
    regWord s 0x0040 = s.rtpTs ∧ regWord s 0x0044 = s.rtpSsrc ∧
    (regWord s 0x0048).toNat = s.rtpPlen.toNat ∧
    regWord s 0x004C = s.lastTs ∧ regWord s 0x0050 = s.lastSsrc ∧ regWord s 0x0054 = s.fecSsrc ∧
    (regWord s 0x0058).toNat = 16777216 * s.hacc[0].toNat + 65536 * s.hacc[1].toNat
      + 256 * s.hacc[2].toNat + s.hacc[3].toNat ∧
    (regWord s 0x005C).toNat = 16777216 * s.hacc[4].toNat + 65536 * s.hacc[5].toNat
      + 256 * s.hacc[6].toNat + s.hacc[7].toNat ∧
    (regWord s 0x0060).toNat = 16777216 * s.hacc[8].toNat + 65536 * s.hacc[9].toNat

/-- R34, R117: after a reset event every word of the register window reads 0 and every byte of PACC is 0, whatever the
state before it. That the host's later accesses still wait (the last clause) is the model's choice (log 9). -/
def Obligations.ResetEventClearsEveryRegister : Prop :=
  ∀ (s : State) (rest : List HostEvent), s.host = .reset :: rest →
    ∃ t, step s = .next t ∧ (∀ a, a ≤ 0x0063 → regWord t a = 0) ∧
      (∀ j, j < 1460 → paccByte t j = 0) ∧ t.host = rest

/-- R14: a step changes FEC_PT or FEC_SEQ only by a reset, by CTX_NEW, or by FEC_ASM, which adds 1 to FEC_SEQ
mod 2^16 and keeps FEC_PT; CTX_NEW sets FEC_SEQ to 0; the CTX word holds both. -/
def Obligations.ContextWrittenOnlyByItsCommands : Prop :=
  (∀ s t : State, step s = .next t → t.fecPt ≠ s.fecPt ∨ t.fecSeq ≠ s.fecSeq →
    ∃ e rest, s.host = e :: rest ∧
      (e = .reset ∨ ∃ d, e = .write .b32 0x0000 d ∧
        ((∃ pt, decode d = .ok (.ctxNew pt) ∧ t.fecSeq = 0) ∨
         (decode d = .ok .fecAsm ∧ t.fecPt = s.fecPt ∧
           t.fecSeq.toNat = (s.fecSeq.toNat + 1) % 65536)))) ∧
  (∀ s : State, (regWord s 0x0018).toNat = s.fecPt.toNat + 65536 * s.fecSeq.toNat)

/-- No command writes IN or IN_LEN (R31, R37). -/
def Obligations.CommandsNeverWriteIn : Prop :=
  ∀ (i : Instr) (s t : State), exec i s = .next t →
    t.inLen = s.inLen ∧ ∀ k, k < 1472 → inByte t k = inByte s k

/-- R37: a command reads of IN only `IN[0..IN_LEN-1]`: other bytes there change neither its registers nor any
other byte. -/
def Obligations.CommandsReadOnlyThePacket : Prop :=
  ∀ (i : Instr) (s t : State) (m : Memory),
    (∀ a, ¬ (0x1000 + s.inLen.toNat ≤ a ∧ a ≤ 0x15BF) → memRead s.epoch m a = byteAt s a) →
    exec i s = .next t →
    ∃ t', exec i { s with mem := m } = .next t' ∧ t' = { t with mem := t'.mem } ∧
      ∀ a, ¬ (0x1000 + s.inLen.toNat ≤ a ∧ a ≤ 0x15BF) → byteAt t' a = byteAt t a

/-! ### Control and context -/

/-- NOP, CTX_NEW and STAT_CLR complete in every state (R69, R70, R71): NOP clears only ERR; CTX_NEW sets FEC_PT to
the operand, FEC_SEQ to 0; STAT_CLR leaves of STATUS only NONE, INWIN, ISFEC and BIT, and clears ERRCMD. -/
def Obligations.ControlCommandsResult : Prop :=
  encode .nop = 0x00000000 ∧ encode .statClr = 0x02000000 ∧
  ∀ (s : State) (pt : Byte),
    (encode (.ctxNew pt)).toNat = 0x01000000 + 65536 * pt.toNat ∧
    (∃ t, exec .nop s = .next t ∧ regWord t 0x0004 = regWord s 0x0004 &&& 0xFFFFFFF0 ∧
      t = { s with err := 0 }) ∧
    (WellFormed (.ctxNew pt) → ∃ t, exec (.ctxNew pt) s = .next t ∧
      t.fecPt.toNat = pt.toNat ∧ t.fecSeq = 0 ∧ (regWord t 0x0018).toNat = pt.toNat ∧
      t = { s with fecPt := t.fecPt, fecSeq := t.fecSeq, err := 0 }) ∧
    (∃ t, exec .statClr s = .next t ∧ regWord t 0x0004 = regWord s 0x0004 &&& 0x000000F0 ∧
      regWord t 0x000C = 0 ∧
      t = { s with flagSticky := false, flagBuserr := false, errcmd := 0, err := 0 })

/-- `CTX_NEW #0; ACC_CLR; MASK_CLR; STAT_CLR` from any state reach the reset values of every register but those
R118 lists (its first sentence). -/
def Obligations.FourClearsReachTheResetValues : Prop :=
  ∀ s : State, ∃ t u v x,
    exec (.ctxNew 0) s = .next t ∧ exec .accClr t = .next u ∧ exec .maskClr u = .next v ∧
    exec .statClr v = .next x ∧ (∀ j, j < 1460 → paccByte x j = 0) ∧
    x = { State.reset with
      mw := s.mw, islong := s.islong, off := s.off, snbase := s.snbase, prot := s.prot,
      lastTs := s.lastTs, lastSsrc := s.lastSsrc, fecSsrc := s.fecSsrc, res := s.res,
      outLen := s.outLen, inLen := s.inLen, rtpB0 := s.rtpB0, rtpB1 := s.rtpB1, rtpSn := s.rtpSn,
      rtpTs := s.rtpTs, rtpSsrc := s.rtpSsrc, rtpPlen := s.rtpPlen, flagNone := s.flagNone,
      flagInwin := s.flagInwin, flagIsfec := s.flagIsfec, flagBit := s.flagBit, mem := x.mem,
      host := s.host, busData := s.busData, epoch := s.epoch }

/-! ### Accumulator -/

/-- R73: ACC_CLR zeroes HACC, every byte of PACC, PMAX and FCNT, clears SNB_VALID, and leaves every other register
and every byte outside PACC. -/
def Obligations.AccClrEmptiesTheAccumulator : Prop :=
  encode .accClr = 0x10000000 ∧
  ∀ s : State, ∃ t, exec .accClr s = .next t ∧
    (∀ (k : Nat) (h : k < 10), t.hacc[k] = 0) ∧ (∀ j, j < 1460 → paccByte t j = 0) ∧
    (∀ a, ¬ (0x3000 ≤ a ∧ a ≤ 0x35B3) → byteAt t a = byteAt s a) ∧
    t = { s with hacc := t.hacc, mem := t.mem, pmax := 0, fcnt := 0, snbValid := false, err := 0 }

/-- R74: what ACC_FOLD_HDR does with a packet of legal length, and INVALID_LEN with any other. -/
def Obligations.AccFoldHdrResult : Prop :=
  encode (.accFoldHdr .dec) = 0x11000000 ∧ encode (.accFoldHdr .enc) = 0x11010000 ∧
  ∀ (lim : Limit) (s : State),
    (¬ PacketOk lim s → exec (.accFoldHdr lim) s =
      .next (errorRecord (encode (.accFoldHdr lim)) 2 s)) ∧
    (PacketOk lim s → ∃ t, exec (.accFoldHdr lim) s = .next t ∧
      (∀ (k : Nat) (h : k < 8), t.hacc[k] = s.hacc[k] ^^^ inByte s k) ∧
      be16 t.hacc[8] t.hacc[9] =
        be16 s.hacc[8] s.hacc[9] ^^^ BitVec.ofNat 16 (s.inLen.toNat - 12) ∧
      t.snbase.toNat = (if s.snbValid then s.snbase.toNat
        else 256 * (inByte s 2).toNat + (inByte s 3).toNat) ∧
      t.snbValid = true ∧
      t.lastTs = be32 (inByte s 4) (inByte s 5) (inByte s 6) (inByte s 7) ∧
      t.lastSsrc = be32 (inByte s 8) (inByte s 9) (inByte s 10) (inByte s 11) ∧
      t.fcnt.toNat = min (s.fcnt.toNat + 1) 255 ∧
      (∀ a, byteAt t a = byteAt s a) ∧
      t = { s with
        hacc := t.hacc, snbase := t.snbase, snbValid := t.snbValid, lastTs := t.lastTs,
        lastSsrc := t.lastSsrc, fcnt := t.fcnt, err := 0 })

/-- R75: what ACC_FOLD_PAY does with a packet of legal length: it folds the payload bytes into PACC from
`PACC[0]` on, raises PMAX, and leaves every other byte and register; with any other length it is INVALID_LEN. -/
def Obligations.AccFoldPayResult : Prop :=
  encode (.accFoldPay .dec) = 0x12000000 ∧ encode (.accFoldPay .enc) = 0x12010000 ∧
  ∀ (lim : Limit) (s : State),
    (¬ PacketOk lim s → exec (.accFoldPay lim) s =
      .next (errorRecord (encode (.accFoldPay lim)) 2 s)) ∧
    (PacketOk lim s → ∃ t, exec (.accFoldPay lim) s = .next t ∧
      (∀ j, j < s.inLen.toNat - 12 → paccByte t j = paccByte s j ^^^ inByte s (12 + j)) ∧
      (∀ a, ¬ (Config.paccBase ≤ a ∧ a < Config.paccBase + (s.inLen.toNat - 12)) →
        byteAt t a = byteAt s a) ∧
      t.pmax.toNat = max s.pmax.toNat (s.inLen.toNat - 12) ∧
      t = { s with mem := t.mem, pmax := t.pmax, err := 0 })

/-- R76: ACC_FOLD completes with the state that ACC_FOLD_HDR and then ACC_FOLD_PAY give, and also with the state
that they give in the other order; with a packet of any other length it is INVALID_LEN and neither half is applied. -/
def Obligations.AccFoldIsBothFolds : Prop :=
  encode (.accFold .dec) = 0x13000000 ∧ encode (.accFold .enc) = 0x13010000 ∧
  ∀ (lim : Limit) (s : State),
    (¬ PacketOk lim s → exec (.accFold lim) s = .next (errorRecord (encode (.accFold lim)) 2 s)) ∧
    (PacketOk lim s → ∃ t u v, exec (.accFold lim) s = .next t ∧ t.err = 0 ∧
      exec (.accFoldHdr lim) s = .next u ∧ exec (.accFoldPay lim) u = .next t ∧
      exec (.accFoldPay lim) s = .next v ∧ exec (.accFoldHdr lim) v = .next t)

/-- R72: each command with a LIM bit fails with INVALID_LEN exactly when IN_LEN is outside the bounds LIM
selects, and then writes only the error record. -/
def Obligations.LengthCheckRaisesInvalidLen : Prop :=
  ∀ (lim : Limit) (s : State),
    ∀ i ∈ [Instr.accFoldHdr lim, .accFoldPay lim, .accFold lim, .rtpParse lim],
      (¬ PacketOk lim s → exec i s = .next (errorRecord (encode i) 2 s)) ∧
      (PacketOk lim s → ∃ t, exec i s = .next t ∧ t.err = 0)

/-- Folding the same packet twice with ACC_FOLD cancels its contribution to HACC, counts it twice in FCNT and leaves
SNBASE, LAST_TS and LAST_SSRC as after the first fold (R74's corner case); as R75 and R76 imply, it also cancels in PACC,
and PMAX is as after the first fold. -/
def Obligations.FoldingTwiceCancels : Prop :=
  ∀ (lim : Limit) (s : State), PacketOk lim s →
    ∃ t u, exec (.accFold lim) s = .next t ∧ exec (.accFold lim) t = .next u ∧
      u.hacc = s.hacc ∧ (∀ a, byteAt u a = byteAt s a) ∧
      u.fcnt.toNat = min (s.fcnt.toNat + 2) 255 ∧
      u.snbase = t.snbase ∧ u.lastTs = t.lastTs ∧ u.lastSsrc = t.lastSsrc ∧ u.pmax = t.pmax

/-! ### Mask -/

/-- R79: MASK_SET sets the bit of its offset, an immediate or OFF, and changes no other bit and nothing else; an offset
of 48 or more is OFFSET_RANGE. -/
def Obligations.MaskSetResult : Prop :=
  (∀ ofs : Byte, (encode (.maskSetImm ofs)).toNat = 0x21000000 + 65536 * ofs.toNat) ∧
  encode .maskSetOff = 0x21800000 ∧
  ∀ (s : State) (o : Half) (i : Instr),
    ((i = .maskSetImm (o.setWidth 8) ∧ o.toNat < 64) ∨ (i = .maskSetOff ∧ s.off = o)) →
    (48 ≤ o.toNat → exec i s = .next (errorRecord (encode i) 3 s)) ∧
    (o.toNat < 48 → ∃ t, exec i s = .next t ∧
      (∀ k, t.mask.getLsbD k = (decide (k = o.toNat) || s.mask.getLsbD k)) ∧
      t = { s with mask := t.mask, err := 0 })

/-- R80: MASK_CLRB clears the bit of its offset, an immediate or OFF, and changes no other bit and nothing else; an
offset of 48 or more is OFFSET_RANGE. -/
def Obligations.MaskClrbResult : Prop :=
  (∀ ofs : Byte, (encode (.maskClrbImm ofs)).toNat = 0x22000000 + 65536 * ofs.toNat) ∧
  encode .maskClrbOff = 0x22800000 ∧
  ∀ (s : State) (o : Half) (i : Instr),
    ((i = .maskClrbImm (o.setWidth 8) ∧ o.toNat < 64) ∨ (i = .maskClrbOff ∧ s.off = o)) →
    (48 ≤ o.toNat → exec i s = .next (errorRecord (encode i) 3 s)) ∧
    (o.toNat < 48 → ∃ t, exec i s = .next t ∧
      (∀ k, t.mask.getLsbD k = (decide (k ≠ o.toNat) && s.mask.getLsbD k)) ∧
      t = { s with mask := t.mask, err := 0 })

/-- R81: MASK_TEST puts the mask bit of its offset, an immediate or OFF, into BIT and RES and changes nothing else; an
offset of 48 or more is OFFSET_RANGE and BIT and RES keep their values. -/
def Obligations.MaskTestResult : Prop :=
  (∀ ofs : Byte, (encode (.maskTestImm ofs)).toNat = 0x23000000 + 65536 * ofs.toNat) ∧
  encode .maskTestOff = 0x23800000 ∧
  ∀ (s : State) (o : Half) (i : Instr),
    ((i = .maskTestImm (o.setWidth 8) ∧ o.toNat < 64) ∨ (i = .maskTestOff ∧ s.off = o)) →
    (48 ≤ o.toNat → exec i s = .next (errorRecord (encode i) 3 s)) ∧
    (o.toNat < 48 → ∃ t, exec i s = .next t ∧
      t.flagBit = s.mask.getLsbD o.toNat ∧ t.res.toNat = (s.mask.getLsbD o.toNat).toNat ∧
      t = { s with flagBit := t.flagBit, res := t.res, err := 0 })

/-- R77: the offset is `A[5:0]` or OFF; the three commands fail with OFFSET_RANGE from offset 48 on, for an immediate
(48 to 63) and for OFF, and then write only the error record, and below 48 they succeed. -/
def Obligations.OffsetsFrom48RaiseOffsetRange : Prop :=
  ∀ (s : State),
    (∀ ofs : Byte, ofs.toNat < 64 →
      ∀ i ∈ [Instr.maskSetImm ofs, .maskClrbImm ofs, .maskTestImm ofs],
        (48 ≤ ofs.toNat → exec i s = .next (errorRecord (encode i) 3 s)) ∧
        (ofs.toNat < 48 → ∃ t, exec i s = .next t ∧ t.err = 0)) ∧
    (∀ i ∈ [Instr.maskSetOff, .maskClrbOff, .maskTestOff],
      (48 ≤ s.off.toNat → exec i s = .next (errorRecord (encode i) 3 s)) ∧
      (s.off.toNat < 48 → ∃ t, exec i s = .next t ∧ t.err = 0))

/-- MASK_CLR clears every bit (R78); MASK_CNT gives the number of set bits (R82); MASK_FIRST gives the lowest set
offset, with NONE telling an empty mask (R83); each leaves everything else. -/
def Obligations.MaskClearCountFirstResult : Prop :=
  encode .maskClr = 0x20000000 ∧ encode .maskCnt = 0x24000000 ∧ encode .maskFirst = 0x25000000 ∧
  ∀ s : State,
    (∃ t, exec .maskClr s = .next t ∧ (∀ k, t.mask.getLsbD k = false) ∧
      t = { s with mask := t.mask, err := 0 }) ∧
    (∃ t, exec .maskCnt s = .next t ∧
      t.res.toNat = (Finset.univ.filter fun k : Fin 48 => s.mask.getLsbD k).card ∧
      t = { s with res := t.res, err := 0 }) ∧
    (∃ t, exec .maskFirst s = .next t ∧
      (s.mask = 0 → t.res = 0 ∧ t.flagNone = true) ∧
      (s.mask ≠ 0 → t.flagNone = false ∧ s.mask.getLsbD t.res.toNat = true ∧
        ∀ k, k < t.res.toNat → s.mask.getLsbD k = false) ∧
      t = { s with res := t.res, flagNone := t.flagNone, err := 0 })

/-- R84: MASK_ISLONG chooses the long form exactly when the group has more than 16 members or the maximum
offset is 16 or more; in the register form the group size is FCNT and the maximum offset the highest set one. -/
def Obligations.MaskIslongResult : Prop :=
  encode .maskIslongAcc = 0x26800000 ∧
  ∀ (s : State) (gs : Byte) (mo : Half),
    (encode (.maskIslongImm gs mo)).toNat = 0x26000000 + 65536 * gs.toNat + mo.toNat ∧
    (WellFormed (.maskIslongImm gs mo) → ∃ t, exec (.maskIslongImm gs mo) s = .next t ∧
      (t.islong = true ↔ 16 < gs.toNat ∨ 16 ≤ mo.toNat) ∧ t.res.toNat = t.islong.toNat ∧
      t = { s with islong := t.islong, res := t.res, err := 0 }) ∧
    (∃ t, exec .maskIslongAcc s = .next t ∧
      (t.islong = true ↔ 16 < s.fcnt.toNat ∨ ∃ k, 16 ≤ k ∧ s.mask.getLsbD k = true) ∧
      t.res.toNat = t.islong.toNat ∧
      t = { s with islong := t.islong, res := t.res, err := 0 })

/-- R85: MASK_ENC writes the mask to MW, offset `i` at bit `15 - i` of the first two bytes (the rest 0) or at bit
`47 - i` of all six; a short form that cannot carry the mask is OFFSET_RANGE. -/
def Obligations.MaskEncResult : Prop :=
  encode .maskEnc = 0x27000000 ∧
  ∀ s : State,
    (MaskFits s → ∃ t, exec .maskEnc s = .next t ∧
      (s.islong = false →
        (∀ i, i < 16 → (be16 t.mw[0] t.mw[1]).getLsbD (15 - i) = s.mask.getLsbD i) ∧
        t.mw[2] = 0 ∧ t.mw[3] = 0 ∧ t.mw[4] = 0 ∧ t.mw[5] = 0) ∧
      (s.islong = true → ∀ i, i < 48 →
        (be48 t.mw[0] t.mw[1] t.mw[2] t.mw[3] t.mw[4] t.mw[5]).getLsbD (47 - i) =
          s.mask.getLsbD i) ∧
      t = { s with mw := t.mw, err := 0 }) ∧
    (¬ MaskFits s → exec .maskEnc s = .next (errorRecord (encode .maskEnc) 3 s))

/-- R86: MASK_DEC reads MW into MASK: offset `i` from bit `15 - i` of the first two bytes, offsets 16 to 47 clear,
or from bit `47 - i` of all six. -/
def Obligations.MaskDecResult : Prop :=
  encode .maskDec = 0x28000000 ∧
  ∀ s : State, ∃ t, exec .maskDec s = .next t ∧
    (s.islong = false → ∀ i, t.mask.getLsbD i =
      (decide (i < 16) && (be16 s.mw[0] s.mw[1]).getLsbD (15 - i))) ∧
    (s.islong = true → ∀ i, i < 48 → t.mask.getLsbD i =
      (be48 s.mw[0] s.mw[1] s.mw[2] s.mw[3] s.mw[4] s.mw[5]).getLsbD (47 - i)) ∧
    t = { s with mask := t.mask, err := 0 }

/-- MASK_DEC and then MASK_ENC give MW back, in the short form with MW[2..5] zeroed (R86's corner case). -/
def Obligations.MaskDecThenEncRestoresMw : Prop :=
  ∀ s : State, ∃ t u, exec .maskDec s = .next t ∧ exec .maskEnc t = .next u ∧ u.err = 0 ∧
    (s.islong = true → u.mw = s.mw) ∧
    (s.islong = false → u.mw = #v[s.mw[0], s.mw[1], 0, 0, 0, 0])

/-! ### Sequence-number comparator -/

/-- R89 with R87 and R88: SN_OFF puts `(sn - SNBASE) mod 2^16` into OFF and RES, INWIN says whether it is at most
15 or 47, and nothing else changes; the operand is the immediate or RTP_SN. -/
def Obligations.SnOffResult : Prop :=
  (∀ sn : Half, (encode (.snOffImm sn)).toNat = 0x30000000 + sn.toNat) ∧
  encode .snOffRtp = 0x30800000 ∧
  ∀ (s : State) (sn : Half) (i : Instr),
    (i = .snOffImm sn ∨ (i = .snOffRtp ∧ s.rtpSn = sn)) →
    ∃ t, exec i s = .next t ∧
      t.off.toNat = (sn.toNat + 65536 - s.snbase.toNat) % 65536 ∧
      (s.snbase.toNat + t.off.toNat) % 65536 = sn.toNat ∧
      t.res.toNat = t.off.toNat ∧
      (t.flagInwin = true ↔ t.off.toNat ≤ if s.islong then 47 else 15) ∧
      t = { s with off := t.off, res := t.res, flagInwin := t.flagInwin, err := 0 }

/-- R90: SN_ADD puts `(SNBASE + k) mod 2^16` into RES and changes nothing else; the operand is the immediate or
OFF; after SN_OFF of a sequence number, SN_ADD OFF gives it back. -/
def Obligations.SnAddResult : Prop :=
  (∀ k : Half, (encode (.snAddImm k)).toNat = 0x31000000 + k.toNat) ∧
  encode .snAddOff = 0x31800000 ∧
  (∀ (s : State) (k : Half) (i : Instr),
    (i = .snAddImm k ∨ (i = .snAddOff ∧ s.off = k)) →
    ∃ t, exec i s = .next t ∧ t.res.toNat = (s.snbase.toNat + k.toNat) % 65536 ∧
      t = { s with res := t.res, err := 0 }) ∧
  (∀ (s : State) (sn : Half), ∃ t u, exec (.snOffImm sn) s = .next t ∧
    exec .snAddOff t = .next u ∧ u.res.toNat = sn.toNat)

/-- R91: SN_SETBASE sets SNBASE to the immediate or RTP_SN and SNB_VALID, and changes nothing else; a header fold
after it then keeps SNBASE. -/
def Obligations.SnSetbaseResult : Prop :=
  (∀ sn : Half, (encode (.snSetbaseImm sn)).toNat = 0x32000000 + sn.toNat) ∧
  encode .snSetbaseRtp = 0x32800000 ∧
  ∀ (s : State) (sn : Half) (i : Instr) (lim : Limit),
    (i = .snSetbaseImm sn ∨ (i = .snSetbaseRtp ∧ s.rtpSn = sn)) →
    ∃ t, exec i s = .next t ∧ t.snbase = sn ∧
      (regWord t 0x001C).toNat % 131072 = sn.toNat + 65536 ∧
      t = { s with snbase := sn, snbValid := true, err := 0 } ∧
      (∀ u, exec (.accFoldHdr lim) t = .next u → u.snbase = sn)

/-! ### RTP header field extractor -/

/-- R92: RTP_PARSE extracts the big-endian fields of a packet of legal length, tells an FEC candidate by the
7-bit payload type alone, and changes nothing else; with any other length it is INVALID_LEN. -/
def Obligations.RtpParseResult : Prop :=
  encode (.rtpParse .dec) = 0x40000000 ∧ encode (.rtpParse .enc) = 0x40010000 ∧
  ∀ (lim : Limit) (s : State),
    (¬ PacketOk lim s → exec (.rtpParse lim) s =
      .next (errorRecord (encode (.rtpParse lim)) 2 s)) ∧
    (PacketOk lim s → ∃ t, exec (.rtpParse lim) s = .next t ∧
      t.rtpB0 = inByte s 0 ∧ t.rtpB1 = inByte s 1 ∧
      t.rtpSn.toNat = 256 * (inByte s 2).toNat + (inByte s 3).toNat ∧
      t.rtpTs.toNat = 16777216 * (inByte s 4).toNat + 65536 * (inByte s 5).toNat
        + 256 * (inByte s 6).toNat + (inByte s 7).toNat ∧
      t.rtpSsrc.toNat = 16777216 * (inByte s 8).toNat + 65536 * (inByte s 9).toNat
        + 256 * (inByte s 10).toNat + (inByte s 11).toNat ∧
      t.rtpPlen.toNat = s.inLen.toNat - 12 ∧
      (t.flagIsfec = true ↔ (inByte s 1).toNat % 128 = s.fecPt.toNat) ∧
      t.res.toNat = t.flagIsfec.toNat ∧
      t = { s with
        rtpB0 := t.rtpB0, rtpB1 := t.rtpB1, rtpSn := t.rtpSn, rtpTs := t.rtpTs,
        rtpSsrc := t.rtpSsrc, rtpPlen := t.rtpPlen, flagIsfec := t.flagIsfec, res := t.res,
        err := 0 })

/-! ### FEC assembler, disassembler and recovery -/

/-- R95 with the layout of R61 to R67: FEC_ASM of a folded group whose mask fits and whose packet fits OUT writes
the packet byte by byte to OUT, sets OUT_LEN and RES, adds 1 to FEC_SEQ, and leaves everything else. -/
def Obligations.FecAsmResult : Prop :=
  ∀ s : State, s.fcnt ≠ 0 → MaskFits s → asmL0 s + padTo4 (asmL0 s) ≤ 1472 →
    ∃ t, exec .fecAsm s = .next t ∧
      outByte t 0 = (if asmL0 s % 4 = 0 then 0x80 else 0xA0) ∧
      (outByte t 1).toNat = 128 + s.fecPt.toNat ∧
      be16 (outByte t 2) (outByte t 3) = s.fecSeq ∧
      be32 (outByte t 4) (outByte t 5) (outByte t 6) (outByte t 7) = s.lastTs ∧
      be32 (outByte t 8) (outByte t 9) (outByte t 10) (outByte t 11) = s.lastSsrc ∧
      (outByte t 12).toNat = (if s.islong then 64 else 0) + s.hacc[0].toNat % 64 ∧
      outByte t 13 = s.hacc[1] ∧
      be16 (outByte t 14) (outByte t 15) = s.snbase ∧
      (∀ (k : Nat) (h : k < 6), outByte t (16 + k) = s.hacc[4 + k]) ∧
      be16 (outByte t 22) (outByte t 23) = s.pmax ∧
      (s.islong = false → ∀ i, i < 16 →
        (be16 (outByte t 24) (outByte t 25)).getLsbD (15 - i) = s.mask.getLsbD i) ∧
      (s.islong = true → ∀ i, i < 48 →
        (be48 (outByte t 24) (outByte t 25) (outByte t 26) (outByte t 27) (outByte t 28)
          (outByte t 29)).getLsbD (47 - i) = s.mask.getLsbD i) ∧
      (∀ j, j < s.pmax.toNat → outByte t (24 + mlOf s.islong + j) = paccByte s j) ∧
      (∀ q, q + 1 < padTo4 (asmL0 s) → outByte t (asmL0 s + q) = 0) ∧
      (padTo4 (asmL0 s) ≠ 0 →
        (outByte t (asmL0 s + padTo4 (asmL0 s) - 1)).toNat = padTo4 (asmL0 s)) ∧
      (∀ a, ¬ (Config.outBase ≤ a ∧ a < Config.outBase + (asmL0 s + padTo4 (asmL0 s))) →
        byteAt t a = byteAt s a) ∧
      t.outLen.toNat = asmL0 s + padTo4 (asmL0 s) ∧ t.outLen.toNat % 4 = 0 ∧
      t.res.toNat = t.outLen.toNat ∧
      t.fecSeq.toNat = (s.fecSeq.toNat + 1) % 65536 ∧
      t = { s with
        mem := t.mem, outLen := t.outLen, res := t.res, fecSeq := t.fecSeq, err := 0 }

/-- The checks of FEC_ASM in their order (R95, R108): ZERO_GROUP, then OFFSET_RANGE, then INVALID_LEN, each writing
only the error record. -/
def Obligations.FecAsmErrorsInOrder : Prop :=
  ∀ s : State,
    (s.fcnt = 0 → exec .fecAsm s = .next (errorRecord 0x50000000 4 s)) ∧
    (s.fcnt ≠ 0 → ¬ MaskFits s → exec .fecAsm s = .next (errorRecord 0x50000000 3 s)) ∧
    (s.fcnt ≠ 0 → MaskFits s → 1472 < asmL0 s + padTo4 (asmL0 s) →
      exec .fecAsm s = .next (errorRecord 0x50000000 2 s))

/-- R68: the sizes of the FEC packets: the unpadded length, the padded length under ALIGN, the smallest packet of
28 bytes and the largest of 1460 from encoder-bounded inputs. -/
def Obligations.FecPacketSizes : Prop :=
  ∀ (loc : Config.PadFlagLoc) (s : State),
    unpaddedLen s.islong s.pmax.toNat = (if s.islong then 30 else 26) + s.pmax.toNat ∧
    (fecPacket .align loc s).length = 4 * ((unpaddedLen s.islong s.pmax.toNat + 3) / 4) ∧
    28 ≤ (fecPacket .align loc s).length ∧
    (s.islong = false → s.pmax = 0 → (fecPacket .align loc s).length = 28) ∧
    (s.pmax.toNat ≤ 1430 → (fecPacket .align loc s).length ≤ 1460) ∧
    (s.islong = true → s.pmax.toNat = 1430 → (fecPacket .align loc s).length = 1460)

/-- R97: FEC_PARSE of a packet that is long enough for its FEC header, its mask and its protection length loads
the accumulator, the mask and the base from it, and leaves everything else. -/
def Obligations.FecParseResult : Prop :=
  ∀ (s : State) (long : Bool) (pl : Nat),
    s.inLen.toNat ≤ 1472 → 26 ≤ s.inLen.toNat →
    long = (inByte s 12).getLsbD 6 → pl = 256 * (inByte s 22).toNat + (inByte s 23).toNat →
    24 + mlOf long + pl ≤ s.inLen.toNat →
    ∃ t, exec .fecParse s = .next t ∧
      t.islong = long ∧ t.snbase.toNat = 256 * (inByte s 14).toNat + (inByte s 15).toNat ∧
      t.snbValid = true ∧
      (∀ (k : Nat) (h : k < 6), t.mw[k] = if k < mlOf long then inByte s (24 + k) else 0) ∧
      (long = false → ∀ i, t.mask.getLsbD i =
        (decide (i < 16) && (be16 (inByte s 24) (inByte s 25)).getLsbD (15 - i))) ∧
      (long = true → ∀ i, i < 48 → t.mask.getLsbD i =
        (be48 (inByte s 24) (inByte s 25) (inByte s 26) (inByte s 27) (inByte s 28)
          (inByte s 29)).getLsbD (47 - i)) ∧
      t.hacc[0].toNat = (inByte s 12).toNat % 64 ∧ t.hacc[1] = inByte s 13 ∧
      t.hacc[2] = 0 ∧ t.hacc[3] = 0 ∧
      (∀ (k : Nat) (h : k < 6), t.hacc[4 + k] = inByte s (16 + k)) ∧
      (∀ j, j < 1460 → paccByte t j = if j < pl then inByte s (24 + mlOf long + j) else 0) ∧
      (∀ a, ¬ (0x3000 ≤ a ∧ a ≤ 0x35B3) → byteAt t a = byteAt s a) ∧
      t.prot.toNat = pl ∧ t.pmax.toNat = pl ∧ t.fcnt = 0 ∧
      t.fecSsrc = be32 (inByte s 8) (inByte s 9) (inByte s 10) (inByte s 11) ∧
      t = { s with
        islong := t.islong, snbase := t.snbase, snbValid := t.snbValid, mw := t.mw, mask := t.mask,
        hacc := t.hacc, mem := t.mem, prot := t.prot, pmax := t.pmax, fcnt := t.fcnt,
        fecSsrc := t.fecSsrc, err := 0 }

/-- The checks of FEC_PARSE in their order (R97, R108): INVALID_LEN outside 12 to 1472, then MALFORMED_FEC for a
packet too short for its FEC header, its mask or its protection length; each writes only the error record. -/
def Obligations.FecParseErrorsInOrder : Prop :=
  ∀ s : State,
    (s.inLen.toNat < 12 ∨ 1472 < s.inLen.toNat →
      exec .fecParse s = .next (errorRecord 0x51000000 2 s)) ∧
    (12 ≤ s.inLen.toNat → s.inLen.toNat ≤ 1472 →
      (s.inLen.toNat < 26 ∨
       s.inLen.toNat < 24 + mlOf ((inByte s 12).getLsbD 6) ∨
       s.inLen.toNat < 24 + mlOf ((inByte s 12).getLsbD 6)
         + (256 * (inByte s 22).toNat + (inByte s 23).toNat)) →
      exec .fecParse s = .next (errorRecord 0x51000000 5 s))

/-- An FEC packet that FEC_ASM assembled and that is then placed in IN parses back: FEC_PARSE gives the mask, the
base, the width, the payload XOR and the header XOR that FEC_ASM carried (R96, R97). -/
def Obligations.ParseOfAssembledPacket : Prop :=
  ∀ s t u : State, exec .fecAsm s = .next t → t.err = 0 →
    u.inLen = t.outLen → (∀ k, k < t.outLen.toNat → inByte u k = outByte t k) →
    ∃ v, exec .fecParse u = .next v ∧ v.err = 0 ∧
      v.mask = s.mask ∧ v.islong = s.islong ∧ v.snbase = s.snbase ∧ v.prot = s.pmax ∧
      v.fecSsrc = s.lastSsrc ∧
      v.hacc = #v[s.hacc[0] &&& 0x3F, s.hacc[1], 0, 0, s.hacc[4], s.hacc[5], s.hacc[6], s.hacc[7],
        s.hacc[8], s.hacc[9]] ∧
      (∀ j, j < 1460 → paccByte v j = if j < s.pmax.toNat then paccByte s j else 0)

/-- R98, the recovery: when exactly one mask bit is left and the recovered length is at most PROT, RECOVER writes
the missing packet byte by byte to OUT and leaves everything else. -/
def Obligations.RecoverWritesTheMissingPacket : Prop :=
  ∀ (s : State) (i bl : Nat), i < 48 → (∀ k, s.mask.getLsbD k = decide (k = i)) →
    bl = 256 * s.hacc[8].toNat + s.hacc[9].toNat → bl ≤ s.prot.toNat →
    ∃ t, exec .recover s = .next t ∧
      (outByte t 0).toNat = 128 + s.hacc[0].toNat % 64 ∧ outByte t 1 = s.hacc[1] ∧
      (be16 (outByte t 2) (outByte t 3)).toNat = (s.snbase.toNat + i) % 65536 ∧
      (∀ (k : Nat) (h : k < 4), outByte t (4 + k) = s.hacc[4 + k]) ∧
      be32 (outByte t 8) (outByte t 9) (outByte t 10) (outByte t 11) = s.fecSsrc ∧
      (∀ j, j < bl → outByte t (12 + j) = paccByte s j) ∧
      (∀ a, ¬ (Config.outBase ≤ a ∧ a < Config.outBase + (12 + bl)) → byteAt t a = byteAt s a) ∧
      t.outLen.toNat = (12 + bl) % 65536 ∧ t.flagNone = false ∧ t.res = 1 ∧
      t = { s with
        mem := t.mem, outLen := t.outLen, flagNone := t.flagNone, res := t.res, err := 0 }

/-- R98, the other outcomes: nothing missing is success with NONE = 1 and OUT untouched; two remaining bits are
UNRECOVERABLE; one remaining bit with a recovered length above PROT is MALFORMED_FEC. -/
def Obligations.RecoverOtherOutcomes : Prop :=
  ∀ s : State,
    (s.mask = 0 → ∃ t, exec .recover s = .next t ∧ (∀ a, byteAt t a = byteAt s a) ∧
      t = { s with flagNone := true, res := 0, err := 0 }) ∧
    (∀ i j, i ≠ j → s.mask.getLsbD i = true → s.mask.getLsbD j = true →
      exec .recover s = .next (errorRecord 0x52000000 6 s)) ∧
    (∀ i, (∀ k, s.mask.getLsbD k = decide (k = i)) → i < 48 →
      s.prot.toNat < 256 * s.hacc[8].toNat + s.hacc[9].toNat →
      exec .recover s = .next (errorRecord 0x52000000 5 s))
end

