-- ==== Sys2Proof/Laws/Bits.lean ====
section
/-! SUPPORT. Laws of the big-endian helpers and of the mask's bits. -/

namespace Sys2Proof.Machine

/-! ### Big-endian fields -/

@[simp] theorem be16_hi_lo (v : Half) : be16 (hiByte v) (loByte v) = v := by
  apply BitVec.eq_of_getLsbD_eq
  intro i hi
  simp only [be16, hiByte, loByte, BitVec.getLsbD_append, BitVec.getLsbD_extractLsb']
  by_cases h : i < 8
  · simp [h]
  · simp only [h, ite_false, decide_false]
    rw [show 8 + (i - 8) = i by omega, show decide (i - 8 < 8) = true by simp; omega]
    simp

@[simp] theorem hiByte_be16 (a b : Byte) : hiByte (be16 a b) = a := by
  apply BitVec.eq_of_getLsbD_eq
  intro i hi
  simp only [be16, hiByte, BitVec.getLsbD_extractLsb', BitVec.getLsbD_append]
  simp [hi]

@[simp] theorem loByte_be16 (a b : Byte) : loByte (be16 a b) = b := by
  apply BitVec.eq_of_getLsbD_eq
  intro i hi
  simp only [be16, loByte, BitVec.getLsbD_extractLsb', BitVec.getLsbD_append]
  simp [hi]

/-- The value of a big-endian pair of bytes. -/
theorem be16_toNat (a b : Byte) : (be16 a b).toNat = 256 * a.toNat + b.toNat := by
  simp only [be16, BitVec.toNat_append]
  rw [← Nat.shiftLeft_add_eq_or_of_lt b.isLt, Nat.shiftLeft_eq]
  ring

/-- The value of a big-endian quadruple of bytes. -/
theorem be32_toNat (a b c d : Byte) :
    (be32 a b c d).toNat = 16777216 * a.toNat + 65536 * b.toNat + 256 * c.toNat + d.toNat := by
  simp only [be32, BitVec.toNat_append]
  rw [← Nat.shiftLeft_add_eq_or_of_lt b.isLt, ← Nat.shiftLeft_add_eq_or_of_lt c.isLt,
    ← Nat.shiftLeft_add_eq_or_of_lt d.isLt]
  simp only [Nat.shiftLeft_eq]
  ring

/-- A word is put together from its big-endian bytes. -/
theorem be32_toBE32 (v : Word) :
    be32 (v.extractLsb' 24 8) (v.extractLsb' 16 8) (v.extractLsb' 8 8) (v.extractLsb' 0 8) = v := by
  apply BitVec.eq_of_getLsbD_eq
  intro i hi
  simp only [be32, BitVec.getLsbD_append, BitVec.getLsbD_extractLsb']
  by_cases h0 : i < 8
  · simp [h0]
  · by_cases h1 : i < 16
    · have e : 8 + (i - 8) = i := by omega
      have : i - 8 < 8 := by omega
      simp [h0, this, e]
    · by_cases h2 : i < 24
      · have e : 16 + (i - 8 - 8) = i := by omega
        have a : ¬ i - 8 < 8 := by omega
        have : i - 8 - 8 < 8 := by omega
        simp [h0, a, this, e]
      · have e : 24 + (i - 8 - 8 - 8) = i := by omega
        have a : ¬ i - 8 < 8 := by omega
        have b : ¬ i - 8 - 8 < 8 := by omega
        have : i - 8 - 8 - 8 < 8 := by omega
        simp [h0, a, b, this, e]

/-! ### Bits by a function -/

@[simp] theorem getLsbD_bitsOf (n : Nat) (f : Nat → Bool) (i : Nat) :
    (bitsOf n f).getLsbD i = (decide (i < n) && f i) := by
  induction n with
  | zero => simp [bitsOf]
  | succ n ih =>
    rw [bitsOf, BitVec.getLsbD_cons, ih]
    by_cases h : i = n
    · subst h; simp
    · rcases Nat.lt_or_gt_of_ne h with hlt | hgt
      · simp [h, hlt, Nat.lt_succ_of_lt hlt]
      · simp [h, show ¬ i < n by omega, show ¬ i < n + 1 by omega]

/-! ### Single bits of the mask -/

/-- `MASK[o] <- 1` sets bit `o` and no other. -/
theorem getLsbD_withBitSet (m : Mask) (o i : Nat) (h : o < 48) :
    (withBitSet m o).getLsbD i = (decide (i = o) || m.getLsbD i) := by
  rw [withBitSet, BitVec.getLsbD_or, BitVec.getLsbD_shiftLeft, BitVec.getLsbD_one]
  by_cases e : i = o
  · subst e; simp [h]
  · rcases Nat.lt_or_gt_of_ne e with hlt | hgt
    · simp [e, hlt]
    · simp [e, show i - o ≠ 0 by omega]

/-- `MASK[o] <- 0` clears bit `o` and no other. -/
theorem getLsbD_withBitClear (m : Mask) (o i : Nat) :
    (withBitClear m o).getLsbD i = (decide (i ≠ o) && m.getLsbD i) := by
  by_cases hi : i < 48
  · rw [withBitClear, BitVec.getLsbD_and, BitVec.getLsbD_not, BitVec.getLsbD_shiftLeft,
      BitVec.getLsbD_one]
    by_cases e : i = o
    · subst e; simp [hi]
    · rcases Nat.lt_or_gt_of_ne e with hlt | hgt
      · simp [e, hlt, hi]
      · simp [e, show i - o ≠ 0 by omega, hi]
  · rw [BitVec.getLsbD_of_ge _ _ (by omega), BitVec.getLsbD_of_ge _ _ (by omega)]
    simp

/-! ### Queries over the mask -/

theorem firstSet_eq_none (m : Mask) : firstSet m = none ↔ ∀ i < 48, m.getLsbD i = false := by
  simp [firstSet]

theorem firstSet_eq_none_iff_zero (m : Mask) : firstSet m = none ↔ m = 0 := by
  rw [firstSet_eq_none]
  constructor
  · intro h
    apply BitVec.eq_of_getLsbD_eq
    intro i hi
    simpa using h i hi
  · rintro rfl i _
    simp

/-- `firstSet` is the lowest set offset (R83). -/
theorem firstSet_eq_some (m : Mask) (i : Nat) :
    firstSet m = some i ↔ i < 48 ∧ m.getLsbD i = true ∧ ∀ j < i, m.getLsbD j = false := by
  rw [firstSet, List.find?_range_eq_some]
  simp only [List.mem_range, Bool.not_eq_true']
  tauto

/-- No bit is set exactly when the count is 0. -/
theorem popcount_eq_zero (m : Mask) : popcount m = 0 ↔ m = 0 := by
  rw [← firstSet_eq_none_iff_zero, firstSet_eq_none, popcount, List.countP_eq_zero]
  simp

theorem popcount_le (m : Mask) : popcount m ≤ 48 := by
  simpa [popcount] using List.countP_le_length (p := fun i => m.getLsbD i) (l := List.range 48)

/-- At most one bit is set exactly when no two different bits are. -/
theorem popcount_le_one (m : Mask) :
    popcount m ≤ 1 ↔ ∀ i j, m.getLsbD i = true → m.getLsbD j = true → i = j := by
  have lt : ∀ i, m.getLsbD i = true → i < 48 := fun i h => by
    by_contra hc
    rw [BitVec.getLsbD_of_ge _ _ (by omega)] at h
    cases h
  have hnd : ((List.range 48).filter fun i => m.getLsbD i).Nodup :=
    List.nodup_range.filter _
  have hmem : ∀ i, i ∈ ((List.range 48).filter fun i => m.getLsbD i) ↔ m.getLsbD i = true := by
    intro i
    rw [List.mem_filter, List.mem_range]
    exact ⟨fun h => h.2, fun h => ⟨lt i h, h⟩⟩
  rw [popcount, List.countP_eq_length_filter]
  generalize (List.range 48).filter (fun i => m.getLsbD i) = l at hnd hmem
  constructor
  · intro h i j hi hj
    match l, h with
    | [], _ => cases (hmem i).2 hi
    | [a], _ =>
      have ei := List.mem_singleton.1 ((hmem i).2 hi)
      have ej := List.mem_singleton.1 ((hmem j).2 hj)
      rw [ei, ej]
  · intro h
    match l with
    | [] => exact Nat.zero_le _
    | [a] => exact Nat.le_refl _
    | a :: b :: l =>
      have e := h a b ((hmem a).1 (by simp)) ((hmem b).1 (by simp))
      subst e
      simp at hnd

/-- The highest set offset of a mask that is not empty (R84). -/
theorem highestSet_spec (m : Mask) (h : m ≠ 0) :
    m.getLsbD (highestSet m) = true ∧ ∀ j, m.getLsbD j = true → j ≤ highestSet m := by
  obtain ⟨o, ho⟩ : ∃ o, ((List.range 48).reverse).find? (fun i => m.getLsbD i) = some o := by
    rw [← Option.isSome_iff_exists, List.find?_isSome]
    by_contra hc
    simp only [List.mem_reverse, List.mem_range, not_exists, not_and, Bool.not_eq_true] at hc
    exact h ((firstSet_eq_none_iff_zero m).1 ((firstSet_eq_none m).2 hc))
  have hs : highestSet m = o := by simp [highestSet, ho]
  rw [hs]
  refine ⟨List.find?_some ho, fun j hj => ?_⟩
  have hj48 : j < 48 := BitVec.lt_of_getLsbD hj
  obtain ⟨_, as, bs, heq, hnot⟩ := List.find?_eq_some_iff_append.1 ho
  by_contra hgt
  have hdec : ((List.range 48).reverse).Pairwise (· > ·) := by
    rw [List.pairwise_reverse]; exact List.pairwise_lt_range
  have hmem : j ∈ as ++ o :: bs := by rw [← heq]; simpa using hj48
  rw [heq] at hdec
  rcases List.mem_append.1 hmem with hin | hin
  · have := hnot j hin
    simp [hj] at this
  · rcases List.mem_cons.1 hin with rfl | hin
    · exact hgt le_rfl
    · have := (List.pairwise_cons.1 (List.pairwise_append.1 hdec).2.1).1 j hin
      omega

theorem highestSet_zero : highestSet 0 = 0 := by decide

/-- The short form cannot carry the mask exactly when a bit above offset 15 is set. -/
theorem hasLongBit_eq_false (m : Mask) :
    hasLongBit m = false ↔ ∀ i, 16 ≤ i → m.getLsbD i = false := by
  constructor
  · intro h i hi
    by_cases h48 : i < 48
    · have h0 : m.extractLsb' 16 32 = 0 := by simpa [hasLongBit] using h
      have := congrArg (fun v => v.getLsbD (i - 16)) h0
      simp only [BitVec.getLsbD_extractLsb'] at this
      rw [show 16 + (i - 16) = i by omega] at this
      simpa [show i - 16 < 32 by omega] using this
    · exact BitVec.getLsbD_of_ge _ _ (by omega)
  · intro h
    have h0 : m.extractLsb' 16 32 = 0 := by
      apply BitVec.eq_of_getLsbD_eq
      intro i hi
      simp [BitVec.getLsbD_extractLsb', h (16 + i) (by omega)]
    simp [hasLongBit, h0]

/-! ### The wire order -/

/-- Offset `i` is bit `15 - i` of the short wire value (R65). -/
theorem getLsbD_wire16 (m : Mask) (k : Nat) (h : k < 16) :
    (wire16 m).getLsbD k = m.getLsbD (15 - k) := by
  rw [wire16, getLsbD_bitsOf]
  simp [h]

/-- Offset `i` is bit `47 - i` of the long wire value (R65). -/
theorem getLsbD_wire48 (m : Mask) (k : Nat) (h : k < 48) :
    (wire48 m).getLsbD k = m.getLsbD (47 - k) := by
  rw [wire48, getLsbD_bitsOf]
  simp [h]

theorem getLsbD_unwire16 (w : Half) (i : Nat) :
    (unwire16 w).getLsbD i = (decide (i < 16) && w.getLsbD (15 - i)) := by
  rw [unwire16, BitVec.getLsbD_setWidth, getLsbD_bitsOf]
  by_cases h : i < 16
  · simp [h, show i < 48 by omega]
  · simp [h]

theorem getLsbD_unwire48 (w : BitVec 48) (i : Nat) :
    (unwire48 w).getLsbD i = (decide (i < 48) && w.getLsbD (47 - i)) := by
  rw [unwire48, getLsbD_bitsOf]

/-- Reading the long wire form of a mask gives the mask. -/
theorem unwire48_wire48 (m : Mask) : unwire48 (wire48 m) = m := by
  apply BitVec.eq_of_getLsbD_eq
  intro i hi
  rw [getLsbD_unwire48, getLsbD_wire48 _ _ (by omega), show 47 - (47 - i) = i by omega]
  simp [hi]

/-- Writing the long wire form of what was read gives the wire value back (R86). -/
theorem wire48_unwire48 (w : BitVec 48) : wire48 (unwire48 w) = w := by
  apply BitVec.eq_of_getLsbD_eq
  intro i hi
  rw [getLsbD_wire48 _ _ hi, getLsbD_unwire48, show 47 - (47 - i) = i by omega]
  simp [show 47 - i < 48 by omega]

/-- Reading the short wire form of a mask that fits gives the mask. -/
theorem unwire16_wire16 (m : Mask) (h : hasLongBit m = false) : unwire16 (wire16 m) = m := by
  apply BitVec.eq_of_getLsbD_eq
  intro i hi
  rw [getLsbD_unwire16]
  by_cases h16 : i < 16
  · rw [getLsbD_wire16 _ _ (by omega), show 15 - (15 - i) = i by omega]
    simp [h16]
  · rw [(hasLongBit_eq_false m).1 h i (by omega)]
    simp [h16]

/-- Writing the short wire form of what was read gives the wire value back (R86). -/
theorem wire16_unwire16 (w : Half) : wire16 (unwire16 w) = w := by
  apply BitVec.eq_of_getLsbD_eq
  intro i hi
  rw [getLsbD_wire16 _ _ hi, getLsbD_unwire16, show 15 - (15 - i) = i by omega]
  simp [show 15 - i < 16 by omega]

theorem unwire16_fits (w : Half) : hasLongBit (unwire16 w) = false := by
  rw [hasLongBit_eq_false]
  intro i hi
  rw [getLsbD_unwire16]
  simp [show ¬ i < 16 by omega]

theorem be48_toBE48 (v : BitVec 48) :
    be48 (v.extractLsb' 40 8) (v.extractLsb' 32 8) (v.extractLsb' 24 8) (v.extractLsb' 16 8)
      (v.extractLsb' 8 8) (v.extractLsb' 0 8) = v := by
  apply BitVec.eq_of_getLsbD_eq
  intro i hi
  simp only [be48, BitVec.getLsbD_append, BitVec.getLsbD_extractLsb']
  have key : ∀ (b n : Nat), b ≤ i → i < b + 8 → b + (i - b) = i := by omega
  rcases (by omega : i < 8 ∨ (8 ≤ i ∧ i < 16) ∨ (16 ≤ i ∧ i < 24) ∨ (24 ≤ i ∧ i < 32) ∨
    (32 ≤ i ∧ i < 40) ∨ (40 ≤ i ∧ i < 48)) with h | ⟨h, h'⟩ | ⟨h, h'⟩ | ⟨h, h'⟩ | ⟨h, h'⟩ | ⟨h, h'⟩
  · simp [h]
  · simp [show ¬ i < 8 by omega, show i - 8 < 8 by omega, show 8 + (i - 8) = i by omega]
  · simp [show ¬ i < 8 by omega, show ¬ i - 8 < 8 by omega, show i - 8 - 8 < 8 by omega,
      show 16 + (i - 8 - 8) = i by omega]
  · simp [show ¬ i < 8 by omega, show ¬ i - 8 < 8 by omega, show ¬ i - 8 - 8 < 8 by omega,
      show i - 8 - 8 - 8 < 8 by omega, show 24 + (i - 8 - 8 - 8) = i by omega]
  · simp [show ¬ i < 8 by omega, show ¬ i - 8 < 8 by omega, show ¬ i - 8 - 8 < 8 by omega,
      show ¬ i - 8 - 8 - 8 < 8 by omega, show i - 8 - 8 - 8 - 8 < 8 by omega,
      show 32 + (i - 8 - 8 - 8 - 8) = i by omega]
  · simp [show ¬ i < 8 by omega, show ¬ i - 8 < 8 by omega, show ¬ i - 8 - 8 < 8 by omega,
      show ¬ i - 8 - 8 - 8 < 8 by omega, show ¬ i - 8 - 8 - 8 - 8 < 8 by omega,
      show i - 8 - 8 - 8 - 8 - 8 < 8 by omega, show 40 + (i - 8 - 8 - 8 - 8 - 8) = i by omega]

/-- The length of the mask's wire form. -/
theorem maskWire_length (m : Mask) (long : Bool) :
    (maskWire m long).length = if long then 6 else 2 := by
  cases long <;> rfl

/-- Reading the wire bytes of a mask that fits the selected form gives the mask (R86, R94). -/
theorem maskRead_maskWire (m : Mask) (long : Bool) (h : long = false → hasLongBit m = false)
    (f : Nat → Byte) (hf : ∀ k < (maskWire m long).length, f k = (maskWire m long).getD k 0) :
    maskRead (f 0) (f 1) (f 2) (f 3) (f 4) (f 5) long = m := by
  cases long with
  | true =>
    simp only [maskWire, if_true, toBE48, List.length_cons, List.length_nil] at hf
    simp only [maskRead, if_true, hf 0 (by omega), hf 1 (by omega), hf 2 (by omega), hf 3 (by omega),
      hf 4 (by omega), hf 5 (by omega), List.getD_cons_zero, List.getD_cons_succ]
    rw [be48_toBE48, unwire48_wire48]
  | false =>
    simp only [maskWire, Bool.false_eq_true, if_false, toBE16, List.length_cons,
      List.length_nil] at hf
    simp only [maskRead, Bool.false_eq_true, if_false, hf 0 (by omega), hf 1 (by omega),
      List.getD_cons_zero, List.getD_cons_succ]
    rw [be16_hi_lo, unwire16_wire16 _ (h rfl)]

end Sys2Proof.Machine
end

