-- ==== Sys2Proof/Laws/Memory.lean ====
section
/-! SUPPORT. Laws of the buffer memory: read after write, the canonical form, and where the listed bytes lie. -/

namespace Sys2Proof.Machine

/-! ### Looking up after an update -/

theorem memLookup_memErase (m : Memory) (a x : Nat) :
    memLookup (memErase m a) x = if x = a then none else memLookup m x := by
  induction m with
  | nil => simp [memErase, memLookup]
  | cons c m ih =>
    obtain ⟨k, v⟩ := c
    by_cases hk : k = a
    · subst hk
      by_cases hx : x = k
      · subst hx; simpa [memErase] using ih
      · simp [memErase, ih, memLookup, hx, Ne.symm hx]
    · by_cases hx : x = a
      · subst hx; simp [memErase, memLookup, hk, ih]
      · simp [memErase, memLookup, hk, ih, hx]

theorem memLookup_memInsert (m : Memory) (a : Nat) (b : Byte) (x : Nat) :
    memLookup (memInsert m a b) x = if x = a then some b else memLookup m x := by
  induction m with
  | nil => simp [memInsert, memLookup, eq_comm]
  | cons c m ih =>
    obtain ⟨k, v⟩ := c
    by_cases h1 : a < k
    · by_cases hx : x = a
      · subst hx; simp [memInsert, memLookup, h1]
      · simp [memInsert, memLookup, h1, hx, Ne.symm hx]
    · by_cases h2 : a = k
      · subst h2
        by_cases hx : x = a
        · subst hx; simp [memInsert, memLookup]
        · simp [memInsert, memLookup, hx, Ne.symm hx]
      · by_cases hx : x = a
        · subst hx; simp [memInsert, memLookup, h1, h2, Ne.symm h2, ih]
        · simp [memInsert, memLookup, h1, h2, ih, hx]

theorem memLookup_memClearPacc (m : Memory) (x : Nat) :
    memLookup (memClearPacc m) x = if inPacc x then none else memLookup m x := by
  induction m with
  | nil => simp [memClearPacc, memLookup]
  | cons c m ih =>
    obtain ⟨k, v⟩ := c
    simp only [memClearPacc] at ih ⊢
    by_cases hk : inPacc k
    · by_cases hx : inPacc x
      · simp [hk, ih, hx]
      · have : k ≠ x := by rintro rfl; exact hx hk
        simp [hk, ih, hx, memLookup, this]
    · by_cases hx : inPacc x
      · have : k ≠ x := by rintro rfl; exact hk hx
        simp [hk, ih, hx, memLookup, this]
      · simp [hk, ih, hx, memLookup]

/-! ### Reading after an update -/

/-- Reading after a byte write gives that byte at its address and the old byte elsewhere. -/
theorem memRead_memWrite (e : Nat) (m : Memory) (a : Nat) (b : Byte) (x : Nat) :
    memRead e (memWrite m a b) x = if x = a then b else memRead e m x := by
  unfold memWrite
  split
  · next h =>
    by_cases hx : x = a
    · subst hx; simp [memRead, memLookup_memErase, h]
    · simp [memRead, memLookup_memErase, hx]
  · by_cases hx : x = a
    · subst hx; simp [memRead, memLookup_memInsert]
    · simp [memRead, memLookup_memInsert, hx]

/-- Reading after writing consecutive bytes: the written bytes at their addresses, the old bytes elsewhere. -/
theorem memRead_memWriteBytes (e : Nat) (bs : List Byte) (m : Memory) (a x : Nat) :
    memRead e (memWriteBytes m a bs) x =
      if a ≤ x ∧ x < a + bs.length then bs.getD (x - a) 0 else memRead e m x := by
  induction bs generalizing m a with
  | nil =>
    rw [memWriteBytes, if_neg]
    simp
  | cons b bs ih =>
    rw [memWriteBytes, ih, memRead_memWrite]
    by_cases h1 : a + 1 ≤ x ∧ x < a + 1 + bs.length
    · rw [if_pos h1, if_pos (by simp; omega)]
      have : x - a = (x - (a + 1)) + 1 := by omega
      rw [this, List.getD_cons_succ]
    · rw [if_neg h1]
      by_cases h2 : x = a
      · subst h2; simp
      · rw [if_neg h2, if_neg (by simp; omega)]

/-- Bytes outside the written range read as before. -/
theorem memRead_memWriteBytes_outside (e : Nat) (bs : List Byte) (m : Memory) (a x : Nat)
    (h : x < a ∨ a + bs.length ≤ x) : memRead e (memWriteBytes m a bs) x = memRead e m x := by
  rw [memRead_memWriteBytes, if_neg (by omega)]

/-- Byte `j` of the written range reads as byte `j` of the list. -/
theorem memRead_memWriteBytes_at (e : Nat) (bs : List Byte) (m : Memory) (a j : Nat)
    (h : j < bs.length) : memRead e (memWriteBytes m a bs) (a + j) = bs[j] := by
  rw [memRead_memWriteBytes, if_pos (by omega)]
  simp [h]

/-- PACC reads 0 everywhere after the clear, and every other byte is as before. -/
theorem memRead_memClearPacc (e : Nat) (m : Memory) (x : Nat) :
    memRead e (memClearPacc m) x = if inPacc x then 0 else memRead e m x := by
  by_cases hx : inPacc x
  · simp [memRead, memLookup_memClearPacc, hx, unlisted]
  · simp [memRead, memLookup_memClearPacc, hx]

/-! ### The canonical form -/

theorem memRising_cons (c : Host.Cell) (m : Memory) :
    memRising (c :: m) = true ↔ (∀ d ∈ m, c.1 < d.1) ∧ memRising m = true := by
  obtain ⟨k, v⟩ := c
  simp [memRising, List.all_eq_true]

theorem mem_of_mem_memErase {m : Memory} {a : Nat} {c : Host.Cell} (h : c ∈ memErase m a) :
    c ∈ m := by
  induction m with
  | nil => simp [memErase] at h
  | cons d m ih =>
    obtain ⟨k, v⟩ := d
    by_cases hk : k = a
    · rw [memErase, if_pos hk] at h
      exact List.mem_cons_of_mem _ (ih h)
    · rw [memErase, if_neg hk] at h
      rcases List.mem_cons.1 h with rfl | h
      · exact List.mem_cons_self
      · exact List.mem_cons_of_mem _ (ih h)

theorem mem_of_mem_memInsert {m : Memory} {a : Nat} {b : Byte} {c : Host.Cell}
    (h : c ∈ memInsert m a b) : c = (a, b) ∨ c ∈ m := by
  induction m with
  | nil => simpa [memInsert] using h
  | cons d m ih =>
    obtain ⟨k, v⟩ := d
    unfold memInsert at h
    split at h
    · simpa using h
    · split at h
      · rcases List.mem_cons.1 h with rfl | h
        · exact .inl rfl
        · exact .inr (List.mem_cons_of_mem _ h)
      · rcases List.mem_cons.1 h with rfl | h
        · exact .inr List.mem_cons_self
        · exact (ih h).imp_right (List.mem_cons_of_mem _)

theorem memRising_memErase {m : Memory} (a : Nat) (h : memRising m = true) :
    memRising (memErase m a) = true := by
  induction m with
  | nil => rfl
  | cons d m ih =>
    obtain ⟨k, v⟩ := d
    obtain ⟨h1, h2⟩ := (memRising_cons _ _).1 h
    unfold memErase
    split
    · exact ih h2
    · exact (memRising_cons _ _).2 ⟨fun c hc => h1 c (mem_of_mem_memErase hc), ih h2⟩

theorem memRising_memInsert {m : Memory} (a : Nat) (b : Byte) (h : memRising m = true) :
    memRising (memInsert m a b) = true := by
  induction m with
  | nil => simp [memInsert, memRising]
  | cons d m ih =>
    obtain ⟨k, v⟩ := d
    obtain ⟨h1, h2⟩ := (memRising_cons _ _).1 h
    unfold memInsert
    split
    · next hlt =>
      refine (memRising_cons _ _).2 ⟨fun c hc => ?_, h⟩
      rcases List.mem_cons.1 hc with rfl | hc
      · exact hlt
      · exact lt_trans hlt (h1 c hc)
    · next hge =>
      split
      · next heq => subst heq; exact (memRising_cons _ _).2 ⟨h1, h2⟩
      · next hne =>
        refine (memRising_cons _ _).2 ⟨fun c hc => ?_, ih h2⟩
        rcases mem_of_mem_memInsert hc with rfl | hc
        · simp only; omega
        · exact h1 c hc

theorem Memory.wf_iff (m : Memory) :
    Memory.wf m = true ↔ memRising m = true ∧ ∀ c ∈ m, unlisted c.1 ≠ some c.2 := by
  simp [Memory.wf, List.all_eq_true]

/-- A byte write keeps the canonical form. -/
theorem memWrite_wf {m : Memory} (a : Nat) (b : Byte) (h : Memory.wf m = true) :
    Memory.wf (memWrite m a b) = true := by
  rw [Memory.wf_iff] at h ⊢
  unfold memWrite
  split
  · exact ⟨memRising_memErase a h.1, fun c hc => h.2 c (mem_of_mem_memErase hc)⟩
  · next hne =>
    refine ⟨memRising_memInsert a b h.1, fun c hc => ?_⟩
    rcases mem_of_mem_memInsert hc with rfl | hc
    · exact hne
    · exact h.2 c hc

/-- Writing consecutive bytes keeps the canonical form. -/
theorem memWriteBytes_wf {m : Memory} (a : Nat) (bs : List Byte) (h : Memory.wf m = true) :
    Memory.wf (memWriteBytes m a bs) = true := by
  induction bs generalizing m a with
  | nil => exact h
  | cons b bs ih => exact ih _ (memWrite_wf a b h)

theorem memRising_filter {m : Memory} (p : Host.Cell → Bool) (h : memRising m = true) :
    memRising (m.filter p) = true := by
  induction m with
  | nil => rfl
  | cons d m ih =>
    obtain ⟨h1, h2⟩ := (memRising_cons _ _).1 h
    rw [List.filter_cons]
    split
    · exact (memRising_cons _ _).2 ⟨fun c hc => h1 c (List.mem_filter.1 hc).1, ih h2⟩
    · exact ih h2

/-- Clearing PACC keeps the canonical form. -/
theorem memClearPacc_wf {m : Memory} (h : Memory.wf m = true) :
    Memory.wf (memClearPacc m) = true := by
  rw [Memory.wf_iff] at h ⊢
  exact ⟨memRising_filter _ h.1, fun c hc => h.2 c (List.mem_filter.1 hc).1⟩

/-! ### Where the listed bytes lie -/

theorem mem_of_mem_memWrite {m : Memory} {a : Nat} {b : Byte} {c : Host.Cell}
    (h : c ∈ memWrite m a b) : c = (a, b) ∨ c ∈ m := by
  unfold memWrite at h
  split at h
  · exact .inr (mem_of_mem_memErase h)
  · exact mem_of_mem_memInsert h

/-- A cell listed after writing consecutive bytes was listed before or lies in the written range. -/
theorem mem_of_mem_memWriteBytes {m : Memory} {a : Nat} {bs : List Byte} {c : Host.Cell}
    (h : c ∈ memWriteBytes m a bs) : (a ≤ c.1 ∧ c.1 < a + bs.length) ∨ c ∈ m := by
  induction bs generalizing m a with
  | nil => exact .inr h
  | cons b bs ih =>
    rcases ih h with h | h
    · left; simp only [List.length_cons]; omega
    · rcases mem_of_mem_memWrite h with rfl | h
      · left; simp
      · exact .inr h

theorem mem_of_mem_memClearPacc {m : Memory} {c : Host.Cell} (h : c ∈ memClearPacc m) : c ∈ m :=
  (List.mem_filter.1 h).1

end Sys2Proof.Machine
end

