-- ==== Sys2Proof/Laws/State.lean ====
section
/-! SUPPORT. One lemma per field for each shared update of the state: finishing, raising an error, clearing the record, a bus error, and the storing host writes. -/

namespace Sys2Proof.Machine

/-! ### finish -/

@[simp] theorem finish_fecPt (s : State) : (finish s).fecPt = s.fecPt := rfl
@[simp] theorem finish_fecSeq (s : State) : (finish s).fecSeq = s.fecSeq := rfl
@[simp] theorem finish_hacc (s : State) : (finish s).hacc = s.hacc := rfl
@[simp] theorem finish_fcnt (s : State) : (finish s).fcnt = s.fcnt := rfl
@[simp] theorem finish_pmax (s : State) : (finish s).pmax = s.pmax := rfl
@[simp] theorem finish_prot (s : State) : (finish s).prot = s.prot := rfl
@[simp] theorem finish_lastTs (s : State) : (finish s).lastTs = s.lastTs := rfl
@[simp] theorem finish_lastSsrc (s : State) : (finish s).lastSsrc = s.lastSsrc := rfl
@[simp] theorem finish_fecSsrc (s : State) : (finish s).fecSsrc = s.fecSsrc := rfl
@[simp] theorem finish_mask (s : State) : (finish s).mask = s.mask := rfl
@[simp] theorem finish_islong (s : State) : (finish s).islong = s.islong := rfl
@[simp] theorem finish_mw (s : State) : (finish s).mw = s.mw := rfl
@[simp] theorem finish_snbase (s : State) : (finish s).snbase = s.snbase := rfl
@[simp] theorem finish_snbValid (s : State) : (finish s).snbValid = s.snbValid := rfl
@[simp] theorem finish_off (s : State) : (finish s).off = s.off := rfl
@[simp] theorem finish_rtpB0 (s : State) : (finish s).rtpB0 = s.rtpB0 := rfl
@[simp] theorem finish_rtpB1 (s : State) : (finish s).rtpB1 = s.rtpB1 := rfl
@[simp] theorem finish_rtpSn (s : State) : (finish s).rtpSn = s.rtpSn := rfl
@[simp] theorem finish_rtpTs (s : State) : (finish s).rtpTs = s.rtpTs := rfl
@[simp] theorem finish_rtpSsrc (s : State) : (finish s).rtpSsrc = s.rtpSsrc := rfl
@[simp] theorem finish_rtpPlen (s : State) : (finish s).rtpPlen = s.rtpPlen := rfl
@[simp] theorem finish_err (s : State) : (finish s).err = 0 := rfl
@[simp] theorem finish_flagNone (s : State) : (finish s).flagNone = s.flagNone := rfl
@[simp] theorem finish_flagInwin (s : State) : (finish s).flagInwin = s.flagInwin := rfl
@[simp] theorem finish_flagIsfec (s : State) : (finish s).flagIsfec = s.flagIsfec := rfl
@[simp] theorem finish_flagBit (s : State) : (finish s).flagBit = s.flagBit := rfl
@[simp] theorem finish_flagBuserr (s : State) : (finish s).flagBuserr = s.flagBuserr := rfl
@[simp] theorem finish_flagSticky (s : State) : (finish s).flagSticky = s.flagSticky := rfl
@[simp] theorem finish_res (s : State) : (finish s).res = s.res := rfl
@[simp] theorem finish_errcmd (s : State) : (finish s).errcmd = s.errcmd := rfl
@[simp] theorem finish_inLen (s : State) : (finish s).inLen = s.inLen := rfl
@[simp] theorem finish_outLen (s : State) : (finish s).outLen = s.outLen := rfl
@[simp] theorem finish_mem (s : State) : (finish s).mem = s.mem := rfl
@[simp] theorem finish_host (s : State) : (finish s).host = s.host := rfl
@[simp] theorem finish_busData (s : State) : (finish s).busData = s.busData := rfl
@[simp] theorem finish_epoch (s : State) : (finish s).epoch = s.epoch := rfl
@[simp] theorem byteAt_finish (s : State) (a : Nat) : byteAt (finish s) a = byteAt s a := rfl
@[simp] theorem inByte_finish (s : State) (a : Nat) : inByte (finish s) a = inByte s a := rfl
@[simp] theorem outByte_finish (s : State) (a : Nat) : outByte (finish s) a = outByte s a := rfl
@[simp] theorem paccByte_finish (s : State) (a : Nat) : paccByte (finish s) a = paccByte s a := rfl
@[simp] theorem inBE16_finish (s : State) (a : Nat) : inBE16 (finish s) a = inBE16 s a := rfl
@[simp] theorem inBE32_finish (s : State) (a : Nat) : inBE32 (finish s) a = inBE32 s a := rfl

/-! ### raiseErr -/

@[simp] theorem raiseErr_fecPt (w : Word) (c : ErrCode) (s : State) :
    (raiseErr w c s).fecPt = s.fecPt := rfl
@[simp] theorem raiseErr_fecSeq (w : Word) (c : ErrCode) (s : State) :
    (raiseErr w c s).fecSeq = s.fecSeq := rfl
@[simp] theorem raiseErr_hacc (w : Word) (c : ErrCode) (s : State) :
    (raiseErr w c s).hacc = s.hacc := rfl
@[simp] theorem raiseErr_fcnt (w : Word) (c : ErrCode) (s : State) :
    (raiseErr w c s).fcnt = s.fcnt := rfl
@[simp] theorem raiseErr_pmax (w : Word) (c : ErrCode) (s : State) :
    (raiseErr w c s).pmax = s.pmax := rfl
@[simp] theorem raiseErr_prot (w : Word) (c : ErrCode) (s : State) :
    (raiseErr w c s).prot = s.prot := rfl
@[simp] theorem raiseErr_lastTs (w : Word) (c : ErrCode) (s : State) :
    (raiseErr w c s).lastTs = s.lastTs := rfl
@[simp] theorem raiseErr_lastSsrc (w : Word) (c : ErrCode) (s : State) :
    (raiseErr w c s).lastSsrc = s.lastSsrc := rfl
@[simp] theorem raiseErr_fecSsrc (w : Word) (c : ErrCode) (s : State) :
    (raiseErr w c s).fecSsrc = s.fecSsrc := rfl
@[simp] theorem raiseErr_mask (w : Word) (c : ErrCode) (s : State) :
    (raiseErr w c s).mask = s.mask := rfl
@[simp] theorem raiseErr_islong (w : Word) (c : ErrCode) (s : State) :
    (raiseErr w c s).islong = s.islong := rfl
@[simp] theorem raiseErr_mw (w : Word) (c : ErrCode) (s : State) : (raiseErr w c s).mw = s.mw := rfl
@[simp] theorem raiseErr_snbase (w : Word) (c : ErrCode) (s : State) :
    (raiseErr w c s).snbase = s.snbase := rfl
@[simp] theorem raiseErr_snbValid (w : Word) (c : ErrCode) (s : State) :
    (raiseErr w c s).snbValid = s.snbValid := rfl
@[simp] theorem raiseErr_off (w : Word) (c : ErrCode) (s : State) :
    (raiseErr w c s).off = s.off := rfl
@[simp] theorem raiseErr_rtpB0 (w : Word) (c : ErrCode) (s : State) :
    (raiseErr w c s).rtpB0 = s.rtpB0 := rfl
@[simp] theorem raiseErr_rtpB1 (w : Word) (c : ErrCode) (s : State) :
    (raiseErr w c s).rtpB1 = s.rtpB1 := rfl
@[simp] theorem raiseErr_rtpSn (w : Word) (c : ErrCode) (s : State) :
    (raiseErr w c s).rtpSn = s.rtpSn := rfl
@[simp] theorem raiseErr_rtpTs (w : Word) (c : ErrCode) (s : State) :
    (raiseErr w c s).rtpTs = s.rtpTs := rfl
@[simp] theorem raiseErr_rtpSsrc (w : Word) (c : ErrCode) (s : State) :
    (raiseErr w c s).rtpSsrc = s.rtpSsrc := rfl
@[simp] theorem raiseErr_rtpPlen (w : Word) (c : ErrCode) (s : State) :
    (raiseErr w c s).rtpPlen = s.rtpPlen := rfl
@[simp] theorem raiseErr_err (w : Word) (c : ErrCode) (s : State) :
    (raiseErr w c s).err = c.number := rfl
@[simp] theorem raiseErr_flagNone (w : Word) (c : ErrCode) (s : State) :
    (raiseErr w c s).flagNone = s.flagNone := rfl
@[simp] theorem raiseErr_flagInwin (w : Word) (c : ErrCode) (s : State) :
    (raiseErr w c s).flagInwin = s.flagInwin := rfl
@[simp] theorem raiseErr_flagIsfec (w : Word) (c : ErrCode) (s : State) :
    (raiseErr w c s).flagIsfec = s.flagIsfec := rfl
@[simp] theorem raiseErr_flagBit (w : Word) (c : ErrCode) (s : State) :
    (raiseErr w c s).flagBit = s.flagBit := rfl
@[simp] theorem raiseErr_flagBuserr (w : Word) (c : ErrCode) (s : State) :
    (raiseErr w c s).flagBuserr = s.flagBuserr := rfl
@[simp] theorem raiseErr_flagSticky (w : Word) (c : ErrCode) (s : State) :
    (raiseErr w c s).flagSticky = true := rfl
@[simp] theorem raiseErr_res (w : Word) (c : ErrCode) (s : State) :
    (raiseErr w c s).res = s.res := rfl
@[simp] theorem raiseErr_errcmd (w : Word) (c : ErrCode) (s : State) :
    (raiseErr w c s).errcmd = if s.flagSticky then s.errcmd else w := rfl
@[simp] theorem raiseErr_inLen (w : Word) (c : ErrCode) (s : State) :
    (raiseErr w c s).inLen = s.inLen := rfl
@[simp] theorem raiseErr_outLen (w : Word) (c : ErrCode) (s : State) :
    (raiseErr w c s).outLen = s.outLen := rfl
@[simp] theorem raiseErr_mem (w : Word) (c : ErrCode) (s : State) :
    (raiseErr w c s).mem = s.mem := rfl
@[simp] theorem raiseErr_host (w : Word) (c : ErrCode) (s : State) :
    (raiseErr w c s).host = s.host := rfl
@[simp] theorem raiseErr_busData (w : Word) (c : ErrCode) (s : State) :
    (raiseErr w c s).busData = s.busData := rfl
@[simp] theorem raiseErr_epoch (w : Word) (c : ErrCode) (s : State) :
    (raiseErr w c s).epoch = s.epoch := rfl
@[simp] theorem byteAt_raiseErr (w : Word) (c : ErrCode) (s : State) (a : Nat) :
    byteAt (raiseErr w c s) a = byteAt s a := rfl
@[simp] theorem inByte_raiseErr (w : Word) (c : ErrCode) (s : State) (a : Nat) :
    inByte (raiseErr w c s) a = inByte s a := rfl
@[simp] theorem outByte_raiseErr (w : Word) (c : ErrCode) (s : State) (a : Nat) :
    outByte (raiseErr w c s) a = outByte s a := rfl
@[simp] theorem paccByte_raiseErr (w : Word) (c : ErrCode) (s : State) (a : Nat) :
    paccByte (raiseErr w c s) a = paccByte s a := rfl
@[simp] theorem inBE16_raiseErr (w : Word) (c : ErrCode) (s : State) (a : Nat) :
    inBE16 (raiseErr w c s) a = inBE16 s a := rfl
@[simp] theorem inBE32_raiseErr (w : Word) (c : ErrCode) (s : State) (a : Nat) :
    inBE32 (raiseErr w c s) a = inBE32 s a := rfl

/-! ### clearErrorRecord -/

@[simp] theorem clearErrorRecord_fecPt (s : State) : (clearErrorRecord s).fecPt = s.fecPt := rfl
@[simp] theorem clearErrorRecord_fecSeq (s : State) : (clearErrorRecord s).fecSeq = s.fecSeq := rfl
@[simp] theorem clearErrorRecord_hacc (s : State) : (clearErrorRecord s).hacc = s.hacc := rfl
@[simp] theorem clearErrorRecord_fcnt (s : State) : (clearErrorRecord s).fcnt = s.fcnt := rfl
@[simp] theorem clearErrorRecord_pmax (s : State) : (clearErrorRecord s).pmax = s.pmax := rfl
@[simp] theorem clearErrorRecord_prot (s : State) : (clearErrorRecord s).prot = s.prot := rfl
@[simp] theorem clearErrorRecord_lastTs (s : State) : (clearErrorRecord s).lastTs = s.lastTs := rfl
@[simp] theorem clearErrorRecord_lastSsrc (s : State) :
    (clearErrorRecord s).lastSsrc = s.lastSsrc := rfl
@[simp] theorem clearErrorRecord_fecSsrc (s : State) :
    (clearErrorRecord s).fecSsrc = s.fecSsrc := rfl
@[simp] theorem clearErrorRecord_mask (s : State) : (clearErrorRecord s).mask = s.mask := rfl
@[simp] theorem clearErrorRecord_islong (s : State) : (clearErrorRecord s).islong = s.islong := rfl
@[simp] theorem clearErrorRecord_mw (s : State) : (clearErrorRecord s).mw = s.mw := rfl
@[simp] theorem clearErrorRecord_snbase (s : State) : (clearErrorRecord s).snbase = s.snbase := rfl
@[simp] theorem clearErrorRecord_snbValid (s : State) :
    (clearErrorRecord s).snbValid = s.snbValid := rfl
@[simp] theorem clearErrorRecord_off (s : State) : (clearErrorRecord s).off = s.off := rfl
@[simp] theorem clearErrorRecord_rtpB0 (s : State) : (clearErrorRecord s).rtpB0 = s.rtpB0 := rfl
@[simp] theorem clearErrorRecord_rtpB1 (s : State) : (clearErrorRecord s).rtpB1 = s.rtpB1 := rfl
@[simp] theorem clearErrorRecord_rtpSn (s : State) : (clearErrorRecord s).rtpSn = s.rtpSn := rfl
@[simp] theorem clearErrorRecord_rtpTs (s : State) : (clearErrorRecord s).rtpTs = s.rtpTs := rfl
@[simp] theorem clearErrorRecord_rtpSsrc (s : State) :
    (clearErrorRecord s).rtpSsrc = s.rtpSsrc := rfl
@[simp] theorem clearErrorRecord_rtpPlen (s : State) :
    (clearErrorRecord s).rtpPlen = s.rtpPlen := rfl
@[simp] theorem clearErrorRecord_err (s : State) : (clearErrorRecord s).err = s.err := rfl
@[simp] theorem clearErrorRecord_flagNone (s : State) :
    (clearErrorRecord s).flagNone = s.flagNone := rfl
@[simp] theorem clearErrorRecord_flagInwin (s : State) :
    (clearErrorRecord s).flagInwin = s.flagInwin := rfl
@[simp] theorem clearErrorRecord_flagIsfec (s : State) :
    (clearErrorRecord s).flagIsfec = s.flagIsfec := rfl
@[simp] theorem clearErrorRecord_flagBit (s : State) :
    (clearErrorRecord s).flagBit = s.flagBit := rfl
@[simp] theorem clearErrorRecord_flagBuserr (s : State) :
    (clearErrorRecord s).flagBuserr = false := rfl
@[simp] theorem clearErrorRecord_flagSticky (s : State) :
    (clearErrorRecord s).flagSticky = false := rfl
@[simp] theorem clearErrorRecord_res (s : State) : (clearErrorRecord s).res = s.res := rfl
@[simp] theorem clearErrorRecord_errcmd (s : State) : (clearErrorRecord s).errcmd = 0 := rfl
@[simp] theorem clearErrorRecord_inLen (s : State) : (clearErrorRecord s).inLen = s.inLen := rfl
@[simp] theorem clearErrorRecord_outLen (s : State) : (clearErrorRecord s).outLen = s.outLen := rfl
@[simp] theorem clearErrorRecord_mem (s : State) : (clearErrorRecord s).mem = s.mem := rfl
@[simp] theorem clearErrorRecord_host (s : State) : (clearErrorRecord s).host = s.host := rfl
@[simp] theorem clearErrorRecord_busData (s : State) :
    (clearErrorRecord s).busData = s.busData := rfl
@[simp] theorem clearErrorRecord_epoch (s : State) : (clearErrorRecord s).epoch = s.epoch := rfl
@[simp] theorem byteAt_clearErrorRecord (s : State) (a : Nat) :
    byteAt (clearErrorRecord s) a = byteAt s a := rfl
@[simp] theorem inByte_clearErrorRecord (s : State) (a : Nat) :
    inByte (clearErrorRecord s) a = inByte s a := rfl
@[simp] theorem outByte_clearErrorRecord (s : State) (a : Nat) :
    outByte (clearErrorRecord s) a = outByte s a := rfl
@[simp] theorem paccByte_clearErrorRecord (s : State) (a : Nat) :
    paccByte (clearErrorRecord s) a = paccByte s a := rfl
@[simp] theorem inBE16_clearErrorRecord (s : State) (a : Nat) :
    inBE16 (clearErrorRecord s) a = inBE16 s a := rfl
@[simp] theorem inBE32_clearErrorRecord (s : State) (a : Nat) :
    inBE32 (clearErrorRecord s) a = inBE32 s a := rfl

/-! ### busError -/

@[simp] theorem busError_fecPt (s : State) : (busError s).fecPt = s.fecPt := rfl
@[simp] theorem busError_fecSeq (s : State) : (busError s).fecSeq = s.fecSeq := rfl
@[simp] theorem busError_hacc (s : State) : (busError s).hacc = s.hacc := rfl
@[simp] theorem busError_fcnt (s : State) : (busError s).fcnt = s.fcnt := rfl
@[simp] theorem busError_pmax (s : State) : (busError s).pmax = s.pmax := rfl
@[simp] theorem busError_prot (s : State) : (busError s).prot = s.prot := rfl
@[simp] theorem busError_lastTs (s : State) : (busError s).lastTs = s.lastTs := rfl
@[simp] theorem busError_lastSsrc (s : State) : (busError s).lastSsrc = s.lastSsrc := rfl
@[simp] theorem busError_fecSsrc (s : State) : (busError s).fecSsrc = s.fecSsrc := rfl
@[simp] theorem busError_mask (s : State) : (busError s).mask = s.mask := rfl
@[simp] theorem busError_islong (s : State) : (busError s).islong = s.islong := rfl
@[simp] theorem busError_mw (s : State) : (busError s).mw = s.mw := rfl
@[simp] theorem busError_snbase (s : State) : (busError s).snbase = s.snbase := rfl
@[simp] theorem busError_snbValid (s : State) : (busError s).snbValid = s.snbValid := rfl
@[simp] theorem busError_off (s : State) : (busError s).off = s.off := rfl
@[simp] theorem busError_rtpB0 (s : State) : (busError s).rtpB0 = s.rtpB0 := rfl
@[simp] theorem busError_rtpB1 (s : State) : (busError s).rtpB1 = s.rtpB1 := rfl
@[simp] theorem busError_rtpSn (s : State) : (busError s).rtpSn = s.rtpSn := rfl
@[simp] theorem busError_rtpTs (s : State) : (busError s).rtpTs = s.rtpTs := rfl
@[simp] theorem busError_rtpSsrc (s : State) : (busError s).rtpSsrc = s.rtpSsrc := rfl
@[simp] theorem busError_rtpPlen (s : State) : (busError s).rtpPlen = s.rtpPlen := rfl
@[simp] theorem busError_err (s : State) : (busError s).err = s.err := rfl
@[simp] theorem busError_flagNone (s : State) : (busError s).flagNone = s.flagNone := rfl
@[simp] theorem busError_flagInwin (s : State) : (busError s).flagInwin = s.flagInwin := rfl
@[simp] theorem busError_flagIsfec (s : State) : (busError s).flagIsfec = s.flagIsfec := rfl
@[simp] theorem busError_flagBit (s : State) : (busError s).flagBit = s.flagBit := rfl
@[simp] theorem busError_flagBuserr (s : State) : (busError s).flagBuserr = true := rfl
@[simp] theorem busError_flagSticky (s : State) : (busError s).flagSticky = s.flagSticky := rfl
@[simp] theorem busError_res (s : State) : (busError s).res = s.res := rfl
@[simp] theorem busError_errcmd (s : State) : (busError s).errcmd = s.errcmd := rfl
@[simp] theorem busError_inLen (s : State) : (busError s).inLen = s.inLen := rfl
@[simp] theorem busError_outLen (s : State) : (busError s).outLen = s.outLen := rfl
@[simp] theorem busError_mem (s : State) : (busError s).mem = s.mem := rfl
@[simp] theorem busError_host (s : State) : (busError s).host = s.host := rfl
@[simp] theorem busError_busData (s : State) : (busError s).busData = s.busData := rfl
@[simp] theorem busError_epoch (s : State) : (busError s).epoch = s.epoch := rfl
@[simp] theorem byteAt_busError (s : State) (a : Nat) : byteAt (busError s) a = byteAt s a := rfl
@[simp] theorem inByte_busError (s : State) (a : Nat) : inByte (busError s) a = inByte s a := rfl
@[simp] theorem outByte_busError (s : State) (a : Nat) : outByte (busError s) a = outByte s a := rfl
@[simp] theorem paccByte_busError (s : State) (a : Nat) :
    paccByte (busError s) a = paccByte s a := rfl
@[simp] theorem inBE16_busError (s : State) (a : Nat) : inBE16 (busError s) a = inBE16 s a := rfl
@[simp] theorem inBE32_busError (s : State) (a : Nat) : inBE32 (busError s) a = inBE32 s a := rfl

/-! ### storeInLen -/

@[simp] theorem storeInLen_fecPt (d : Word) (s : State) : (storeInLen d s).fecPt = s.fecPt := rfl
@[simp] theorem storeInLen_fecSeq (d : Word) (s : State) : (storeInLen d s).fecSeq = s.fecSeq := rfl
@[simp] theorem storeInLen_hacc (d : Word) (s : State) : (storeInLen d s).hacc = s.hacc := rfl
@[simp] theorem storeInLen_fcnt (d : Word) (s : State) : (storeInLen d s).fcnt = s.fcnt := rfl
@[simp] theorem storeInLen_pmax (d : Word) (s : State) : (storeInLen d s).pmax = s.pmax := rfl
@[simp] theorem storeInLen_prot (d : Word) (s : State) : (storeInLen d s).prot = s.prot := rfl
@[simp] theorem storeInLen_lastTs (d : Word) (s : State) : (storeInLen d s).lastTs = s.lastTs := rfl
@[simp] theorem storeInLen_lastSsrc (d : Word) (s : State) :
    (storeInLen d s).lastSsrc = s.lastSsrc := rfl
@[simp] theorem storeInLen_fecSsrc (d : Word) (s : State) :
    (storeInLen d s).fecSsrc = s.fecSsrc := rfl
@[simp] theorem storeInLen_mask (d : Word) (s : State) : (storeInLen d s).mask = s.mask := rfl
@[simp] theorem storeInLen_islong (d : Word) (s : State) : (storeInLen d s).islong = s.islong := rfl
@[simp] theorem storeInLen_mw (d : Word) (s : State) : (storeInLen d s).mw = s.mw := rfl
@[simp] theorem storeInLen_snbase (d : Word) (s : State) : (storeInLen d s).snbase = s.snbase := rfl
@[simp] theorem storeInLen_snbValid (d : Word) (s : State) :
    (storeInLen d s).snbValid = s.snbValid := rfl
@[simp] theorem storeInLen_off (d : Word) (s : State) : (storeInLen d s).off = s.off := rfl
@[simp] theorem storeInLen_rtpB0 (d : Word) (s : State) : (storeInLen d s).rtpB0 = s.rtpB0 := rfl
@[simp] theorem storeInLen_rtpB1 (d : Word) (s : State) : (storeInLen d s).rtpB1 = s.rtpB1 := rfl
@[simp] theorem storeInLen_rtpSn (d : Word) (s : State) : (storeInLen d s).rtpSn = s.rtpSn := rfl
@[simp] theorem storeInLen_rtpTs (d : Word) (s : State) : (storeInLen d s).rtpTs = s.rtpTs := rfl
@[simp] theorem storeInLen_rtpSsrc (d : Word) (s : State) :
    (storeInLen d s).rtpSsrc = s.rtpSsrc := rfl
@[simp] theorem storeInLen_rtpPlen (d : Word) (s : State) :
    (storeInLen d s).rtpPlen = s.rtpPlen := rfl
@[simp] theorem storeInLen_err (d : Word) (s : State) : (storeInLen d s).err = s.err := rfl
@[simp] theorem storeInLen_flagNone (d : Word) (s : State) :
    (storeInLen d s).flagNone = s.flagNone := rfl
@[simp] theorem storeInLen_flagInwin (d : Word) (s : State) :
    (storeInLen d s).flagInwin = s.flagInwin := rfl
@[simp] theorem storeInLen_flagIsfec (d : Word) (s : State) :
    (storeInLen d s).flagIsfec = s.flagIsfec := rfl
@[simp] theorem storeInLen_flagBit (d : Word) (s : State) :
    (storeInLen d s).flagBit = s.flagBit := rfl
@[simp] theorem storeInLen_flagBuserr (d : Word) (s : State) :
    (storeInLen d s).flagBuserr = s.flagBuserr := rfl
@[simp] theorem storeInLen_flagSticky (d : Word) (s : State) :
    (storeInLen d s).flagSticky = s.flagSticky := rfl
@[simp] theorem storeInLen_res (d : Word) (s : State) : (storeInLen d s).res = s.res := rfl
@[simp] theorem storeInLen_errcmd (d : Word) (s : State) : (storeInLen d s).errcmd = s.errcmd := rfl
@[simp] theorem storeInLen_inLen (d : Word) (s : State) :
    (storeInLen d s).inLen = d.extractLsb' 0 16 := rfl
@[simp] theorem storeInLen_outLen (d : Word) (s : State) : (storeInLen d s).outLen = s.outLen := rfl
@[simp] theorem storeInLen_mem (d : Word) (s : State) : (storeInLen d s).mem = s.mem := rfl
@[simp] theorem storeInLen_host (d : Word) (s : State) : (storeInLen d s).host = s.host := rfl
@[simp] theorem storeInLen_busData (d : Word) (s : State) :
    (storeInLen d s).busData = s.busData := rfl
@[simp] theorem storeInLen_epoch (d : Word) (s : State) : (storeInLen d s).epoch = s.epoch := rfl
@[simp] theorem byteAt_storeInLen (d : Word) (s : State) (a : Nat) :
    byteAt (storeInLen d s) a = byteAt s a := rfl
@[simp] theorem inByte_storeInLen (d : Word) (s : State) (a : Nat) :
    inByte (storeInLen d s) a = inByte s a := rfl
@[simp] theorem outByte_storeInLen (d : Word) (s : State) (a : Nat) :
    outByte (storeInLen d s) a = outByte s a := rfl
@[simp] theorem paccByte_storeInLen (d : Word) (s : State) (a : Nat) :
    paccByte (storeInLen d s) a = paccByte s a := rfl
@[simp] theorem inBE16_storeInLen (d : Word) (s : State) (a : Nat) :
    inBE16 (storeInLen d s) a = inBE16 s a := rfl
@[simp] theorem inBE32_storeInLen (d : Word) (s : State) (a : Nat) :
    inBE32 (storeInLen d s) a = inBE32 s a := rfl

/-! ### storeIn -/

@[simp] theorem storeIn_fecPt (a : Nat) (bs : List Byte) (s : State) :
    (storeIn a bs s).fecPt = s.fecPt := rfl
@[simp] theorem storeIn_fecSeq (a : Nat) (bs : List Byte) (s : State) :
    (storeIn a bs s).fecSeq = s.fecSeq := rfl
@[simp] theorem storeIn_hacc (a : Nat) (bs : List Byte) (s : State) :
    (storeIn a bs s).hacc = s.hacc := rfl
@[simp] theorem storeIn_fcnt (a : Nat) (bs : List Byte) (s : State) :
    (storeIn a bs s).fcnt = s.fcnt := rfl
@[simp] theorem storeIn_pmax (a : Nat) (bs : List Byte) (s : State) :
    (storeIn a bs s).pmax = s.pmax := rfl
@[simp] theorem storeIn_prot (a : Nat) (bs : List Byte) (s : State) :
    (storeIn a bs s).prot = s.prot := rfl
@[simp] theorem storeIn_lastTs (a : Nat) (bs : List Byte) (s : State) :
    (storeIn a bs s).lastTs = s.lastTs := rfl
@[simp] theorem storeIn_lastSsrc (a : Nat) (bs : List Byte) (s : State) :
    (storeIn a bs s).lastSsrc = s.lastSsrc := rfl
@[simp] theorem storeIn_fecSsrc (a : Nat) (bs : List Byte) (s : State) :
    (storeIn a bs s).fecSsrc = s.fecSsrc := rfl
@[simp] theorem storeIn_mask (a : Nat) (bs : List Byte) (s : State) :
    (storeIn a bs s).mask = s.mask := rfl
@[simp] theorem storeIn_islong (a : Nat) (bs : List Byte) (s : State) :
    (storeIn a bs s).islong = s.islong := rfl
@[simp] theorem storeIn_mw (a : Nat) (bs : List Byte) (s : State) :
    (storeIn a bs s).mw = s.mw := rfl
@[simp] theorem storeIn_snbase (a : Nat) (bs : List Byte) (s : State) :
    (storeIn a bs s).snbase = s.snbase := rfl
@[simp] theorem storeIn_snbValid (a : Nat) (bs : List Byte) (s : State) :
    (storeIn a bs s).snbValid = s.snbValid := rfl
@[simp] theorem storeIn_off (a : Nat) (bs : List Byte) (s : State) :
    (storeIn a bs s).off = s.off := rfl
@[simp] theorem storeIn_rtpB0 (a : Nat) (bs : List Byte) (s : State) :
    (storeIn a bs s).rtpB0 = s.rtpB0 := rfl
@[simp] theorem storeIn_rtpB1 (a : Nat) (bs : List Byte) (s : State) :
    (storeIn a bs s).rtpB1 = s.rtpB1 := rfl
@[simp] theorem storeIn_rtpSn (a : Nat) (bs : List Byte) (s : State) :
    (storeIn a bs s).rtpSn = s.rtpSn := rfl
@[simp] theorem storeIn_rtpTs (a : Nat) (bs : List Byte) (s : State) :
    (storeIn a bs s).rtpTs = s.rtpTs := rfl
@[simp] theorem storeIn_rtpSsrc (a : Nat) (bs : List Byte) (s : State) :
    (storeIn a bs s).rtpSsrc = s.rtpSsrc := rfl
@[simp] theorem storeIn_rtpPlen (a : Nat) (bs : List Byte) (s : State) :
    (storeIn a bs s).rtpPlen = s.rtpPlen := rfl
@[simp] theorem storeIn_err (a : Nat) (bs : List Byte) (s : State) :
    (storeIn a bs s).err = s.err := rfl
@[simp] theorem storeIn_flagNone (a : Nat) (bs : List Byte) (s : State) :
    (storeIn a bs s).flagNone = s.flagNone := rfl
@[simp] theorem storeIn_flagInwin (a : Nat) (bs : List Byte) (s : State) :
    (storeIn a bs s).flagInwin = s.flagInwin := rfl
@[simp] theorem storeIn_flagIsfec (a : Nat) (bs : List Byte) (s : State) :
    (storeIn a bs s).flagIsfec = s.flagIsfec := rfl
@[simp] theorem storeIn_flagBit (a : Nat) (bs : List Byte) (s : State) :
    (storeIn a bs s).flagBit = s.flagBit := rfl
@[simp] theorem storeIn_flagBuserr (a : Nat) (bs : List Byte) (s : State) :
    (storeIn a bs s).flagBuserr = s.flagBuserr := rfl
@[simp] theorem storeIn_flagSticky (a : Nat) (bs : List Byte) (s : State) :
    (storeIn a bs s).flagSticky = s.flagSticky := rfl
@[simp] theorem storeIn_res (a : Nat) (bs : List Byte) (s : State) :
    (storeIn a bs s).res = s.res := rfl
@[simp] theorem storeIn_errcmd (a : Nat) (bs : List Byte) (s : State) :
    (storeIn a bs s).errcmd = s.errcmd := rfl
@[simp] theorem storeIn_inLen (a : Nat) (bs : List Byte) (s : State) :
    (storeIn a bs s).inLen = s.inLen := rfl
@[simp] theorem storeIn_outLen (a : Nat) (bs : List Byte) (s : State) :
    (storeIn a bs s).outLen = s.outLen := rfl
@[simp] theorem storeIn_mem (a : Nat) (bs : List Byte) (s : State) :
    (storeIn a bs s).mem = memWriteBytes s.mem a bs := rfl
@[simp] theorem storeIn_host (a : Nat) (bs : List Byte) (s : State) :
    (storeIn a bs s).host = s.host := rfl
@[simp] theorem storeIn_busData (a : Nat) (bs : List Byte) (s : State) :
    (storeIn a bs s).busData = s.busData := rfl
@[simp] theorem storeIn_epoch (a : Nat) (bs : List Byte) (s : State) :
    (storeIn a bs s).epoch = s.epoch := rfl

end Sys2Proof.Machine
end

