-- ==== Sys2Proof/Laws/Updates.lean ====
section
/-! SUPPORT. One lemma per field for each command's update of the state. -/

namespace Sys2Proof.Machine

/-! ### accCleared -/

@[simp] theorem accCleared_fecPt (s : State) : (accCleared s).fecPt = s.fecPt := rfl
@[simp] theorem accCleared_fecSeq (s : State) : (accCleared s).fecSeq = s.fecSeq := rfl
@[simp] theorem accCleared_hacc (s : State) :
    (accCleared s).hacc = #v[0, 0, 0, 0, 0, 0, 0, 0, 0, 0] := rfl
@[simp] theorem accCleared_fcnt (s : State) : (accCleared s).fcnt = 0 := rfl
@[simp] theorem accCleared_pmax (s : State) : (accCleared s).pmax = 0 := rfl
@[simp] theorem accCleared_prot (s : State) : (accCleared s).prot = s.prot := rfl
@[simp] theorem accCleared_lastTs (s : State) : (accCleared s).lastTs = s.lastTs := rfl
@[simp] theorem accCleared_lastSsrc (s : State) : (accCleared s).lastSsrc = s.lastSsrc := rfl
@[simp] theorem accCleared_fecSsrc (s : State) : (accCleared s).fecSsrc = s.fecSsrc := rfl
@[simp] theorem accCleared_mask (s : State) : (accCleared s).mask = s.mask := rfl
@[simp] theorem accCleared_islong (s : State) : (accCleared s).islong = s.islong := rfl
@[simp] theorem accCleared_mw (s : State) : (accCleared s).mw = s.mw := rfl
@[simp] theorem accCleared_snbase (s : State) : (accCleared s).snbase = s.snbase := rfl
@[simp] theorem accCleared_snbValid (s : State) : (accCleared s).snbValid = false := rfl
@[simp] theorem accCleared_off (s : State) : (accCleared s).off = s.off := rfl
@[simp] theorem accCleared_rtpB0 (s : State) : (accCleared s).rtpB0 = s.rtpB0 := rfl
@[simp] theorem accCleared_rtpB1 (s : State) : (accCleared s).rtpB1 = s.rtpB1 := rfl
@[simp] theorem accCleared_rtpSn (s : State) : (accCleared s).rtpSn = s.rtpSn := rfl
@[simp] theorem accCleared_rtpTs (s : State) : (accCleared s).rtpTs = s.rtpTs := rfl
@[simp] theorem accCleared_rtpSsrc (s : State) : (accCleared s).rtpSsrc = s.rtpSsrc := rfl
@[simp] theorem accCleared_rtpPlen (s : State) : (accCleared s).rtpPlen = s.rtpPlen := rfl
@[simp] theorem accCleared_err (s : State) : (accCleared s).err = s.err := rfl
@[simp] theorem accCleared_flagNone (s : State) : (accCleared s).flagNone = s.flagNone := rfl
@[simp] theorem accCleared_flagInwin (s : State) : (accCleared s).flagInwin = s.flagInwin := rfl
@[simp] theorem accCleared_flagIsfec (s : State) : (accCleared s).flagIsfec = s.flagIsfec := rfl
@[simp] theorem accCleared_flagBit (s : State) : (accCleared s).flagBit = s.flagBit := rfl
@[simp] theorem accCleared_flagBuserr (s : State) : (accCleared s).flagBuserr = s.flagBuserr := rfl
@[simp] theorem accCleared_flagSticky (s : State) : (accCleared s).flagSticky = s.flagSticky := rfl
@[simp] theorem accCleared_res (s : State) : (accCleared s).res = s.res := rfl
@[simp] theorem accCleared_errcmd (s : State) : (accCleared s).errcmd = s.errcmd := rfl
@[simp] theorem accCleared_inLen (s : State) : (accCleared s).inLen = s.inLen := rfl
@[simp] theorem accCleared_outLen (s : State) : (accCleared s).outLen = s.outLen := rfl
@[simp] theorem accCleared_mem (s : State) : (accCleared s).mem = memClearPacc s.mem := rfl
@[simp] theorem accCleared_host (s : State) : (accCleared s).host = s.host := rfl
@[simp] theorem accCleared_busData (s : State) : (accCleared s).busData = s.busData := rfl
@[simp] theorem accCleared_epoch (s : State) : (accCleared s).epoch = s.epoch := rfl

/-! ### foldHdr -/

@[simp] theorem foldHdr_fecPt (len : Nat) (s : State) : (foldHdr len s).fecPt = s.fecPt := rfl
@[simp] theorem foldHdr_fecSeq (len : Nat) (s : State) : (foldHdr len s).fecSeq = s.fecSeq := rfl
@[simp] theorem foldHdr_hacc (len : Nat) (s : State) :
    (foldHdr len s).hacc = haccFolded (BitVec.ofNat 16 (len - Config.hdrLen)) s := rfl
@[simp] theorem foldHdr_fcnt (len : Nat) (s : State) : (foldHdr len s).fcnt = fcntNext s.fcnt := rfl
@[simp] theorem foldHdr_pmax (len : Nat) (s : State) : (foldHdr len s).pmax = s.pmax := rfl
@[simp] theorem foldHdr_prot (len : Nat) (s : State) : (foldHdr len s).prot = s.prot := rfl
@[simp] theorem foldHdr_lastTs (len : Nat) (s : State) : (foldHdr len s).lastTs = inBE32 s 4 := rfl
@[simp] theorem foldHdr_lastSsrc (len : Nat) (s : State) :
    (foldHdr len s).lastSsrc = inBE32 s 8 := rfl
@[simp] theorem foldHdr_fecSsrc (len : Nat) (s : State) : (foldHdr len s).fecSsrc = s.fecSsrc := rfl
@[simp] theorem foldHdr_mask (len : Nat) (s : State) : (foldHdr len s).mask = s.mask := rfl
@[simp] theorem foldHdr_islong (len : Nat) (s : State) : (foldHdr len s).islong = s.islong := rfl
@[simp] theorem foldHdr_mw (len : Nat) (s : State) : (foldHdr len s).mw = s.mw := rfl
@[simp] theorem foldHdr_snbase (len : Nat) (s : State) :
    (foldHdr len s).snbase = if s.snbValid then s.snbase else inBE16 s 2 := rfl
@[simp] theorem foldHdr_snbValid (len : Nat) (s : State) : (foldHdr len s).snbValid = true := rfl
@[simp] theorem foldHdr_off (len : Nat) (s : State) : (foldHdr len s).off = s.off := rfl
@[simp] theorem foldHdr_rtpB0 (len : Nat) (s : State) : (foldHdr len s).rtpB0 = s.rtpB0 := rfl
@[simp] theorem foldHdr_rtpB1 (len : Nat) (s : State) : (foldHdr len s).rtpB1 = s.rtpB1 := rfl
@[simp] theorem foldHdr_rtpSn (len : Nat) (s : State) : (foldHdr len s).rtpSn = s.rtpSn := rfl
@[simp] theorem foldHdr_rtpTs (len : Nat) (s : State) : (foldHdr len s).rtpTs = s.rtpTs := rfl
@[simp] theorem foldHdr_rtpSsrc (len : Nat) (s : State) : (foldHdr len s).rtpSsrc = s.rtpSsrc := rfl
@[simp] theorem foldHdr_rtpPlen (len : Nat) (s : State) : (foldHdr len s).rtpPlen = s.rtpPlen := rfl
@[simp] theorem foldHdr_err (len : Nat) (s : State) : (foldHdr len s).err = s.err := rfl
@[simp] theorem foldHdr_flagNone (len : Nat) (s : State) :
    (foldHdr len s).flagNone = s.flagNone := rfl
@[simp] theorem foldHdr_flagInwin (len : Nat) (s : State) :
    (foldHdr len s).flagInwin = s.flagInwin := rfl
@[simp] theorem foldHdr_flagIsfec (len : Nat) (s : State) :
    (foldHdr len s).flagIsfec = s.flagIsfec := rfl
@[simp] theorem foldHdr_flagBit (len : Nat) (s : State) : (foldHdr len s).flagBit = s.flagBit := rfl
@[simp] theorem foldHdr_flagBuserr (len : Nat) (s : State) :
    (foldHdr len s).flagBuserr = s.flagBuserr := rfl
@[simp] theorem foldHdr_flagSticky (len : Nat) (s : State) :
    (foldHdr len s).flagSticky = s.flagSticky := rfl
@[simp] theorem foldHdr_res (len : Nat) (s : State) : (foldHdr len s).res = s.res := rfl
@[simp] theorem foldHdr_errcmd (len : Nat) (s : State) : (foldHdr len s).errcmd = s.errcmd := rfl
@[simp] theorem foldHdr_inLen (len : Nat) (s : State) : (foldHdr len s).inLen = s.inLen := rfl
@[simp] theorem foldHdr_outLen (len : Nat) (s : State) : (foldHdr len s).outLen = s.outLen := rfl
@[simp] theorem foldHdr_mem (len : Nat) (s : State) : (foldHdr len s).mem = s.mem := rfl
@[simp] theorem foldHdr_host (len : Nat) (s : State) : (foldHdr len s).host = s.host := rfl
@[simp] theorem foldHdr_busData (len : Nat) (s : State) : (foldHdr len s).busData = s.busData := rfl
@[simp] theorem foldHdr_epoch (len : Nat) (s : State) : (foldHdr len s).epoch = s.epoch := rfl
@[simp] theorem byteAt_foldHdr (len : Nat) (s : State) (a : Nat) :
    byteAt (foldHdr len s) a = byteAt s a := rfl
@[simp] theorem inByte_foldHdr (len : Nat) (s : State) (a : Nat) :
    inByte (foldHdr len s) a = inByte s a := rfl
@[simp] theorem outByte_foldHdr (len : Nat) (s : State) (a : Nat) :
    outByte (foldHdr len s) a = outByte s a := rfl
@[simp] theorem paccByte_foldHdr (len : Nat) (s : State) (a : Nat) :
    paccByte (foldHdr len s) a = paccByte s a := rfl
@[simp] theorem inBE16_foldHdr (len : Nat) (s : State) (a : Nat) :
    inBE16 (foldHdr len s) a = inBE16 s a := rfl
@[simp] theorem inBE32_foldHdr (len : Nat) (s : State) (a : Nat) :
    inBE32 (foldHdr len s) a = inBE32 s a := rfl

/-! ### foldPay -/

@[simp] theorem foldPay_fecPt (len : Nat) (s : State) : (foldPay len s).fecPt = s.fecPt := rfl
@[simp] theorem foldPay_fecSeq (len : Nat) (s : State) : (foldPay len s).fecSeq = s.fecSeq := rfl
@[simp] theorem foldPay_hacc (len : Nat) (s : State) : (foldPay len s).hacc = s.hacc := rfl
@[simp] theorem foldPay_fcnt (len : Nat) (s : State) : (foldPay len s).fcnt = s.fcnt := rfl
@[simp] theorem foldPay_pmax (len : Nat) (s : State) :
    (foldPay len s).pmax = BitVec.ofNat 16 (max s.pmax.toNat (len - Config.hdrLen)) := rfl
@[simp] theorem foldPay_prot (len : Nat) (s : State) : (foldPay len s).prot = s.prot := rfl
@[simp] theorem foldPay_lastTs (len : Nat) (s : State) : (foldPay len s).lastTs = s.lastTs := rfl
@[simp] theorem foldPay_lastSsrc (len : Nat) (s : State) :
    (foldPay len s).lastSsrc = s.lastSsrc := rfl
@[simp] theorem foldPay_fecSsrc (len : Nat) (s : State) : (foldPay len s).fecSsrc = s.fecSsrc := rfl
@[simp] theorem foldPay_mask (len : Nat) (s : State) : (foldPay len s).mask = s.mask := rfl
@[simp] theorem foldPay_islong (len : Nat) (s : State) : (foldPay len s).islong = s.islong := rfl
@[simp] theorem foldPay_mw (len : Nat) (s : State) : (foldPay len s).mw = s.mw := rfl
@[simp] theorem foldPay_snbase (len : Nat) (s : State) : (foldPay len s).snbase = s.snbase := rfl
@[simp] theorem foldPay_snbValid (len : Nat) (s : State) :
    (foldPay len s).snbValid = s.snbValid := rfl
@[simp] theorem foldPay_off (len : Nat) (s : State) : (foldPay len s).off = s.off := rfl
@[simp] theorem foldPay_rtpB0 (len : Nat) (s : State) : (foldPay len s).rtpB0 = s.rtpB0 := rfl
@[simp] theorem foldPay_rtpB1 (len : Nat) (s : State) : (foldPay len s).rtpB1 = s.rtpB1 := rfl
@[simp] theorem foldPay_rtpSn (len : Nat) (s : State) : (foldPay len s).rtpSn = s.rtpSn := rfl
@[simp] theorem foldPay_rtpTs (len : Nat) (s : State) : (foldPay len s).rtpTs = s.rtpTs := rfl
@[simp] theorem foldPay_rtpSsrc (len : Nat) (s : State) : (foldPay len s).rtpSsrc = s.rtpSsrc := rfl
@[simp] theorem foldPay_rtpPlen (len : Nat) (s : State) : (foldPay len s).rtpPlen = s.rtpPlen := rfl
@[simp] theorem foldPay_err (len : Nat) (s : State) : (foldPay len s).err = s.err := rfl
@[simp] theorem foldPay_flagNone (len : Nat) (s : State) :
    (foldPay len s).flagNone = s.flagNone := rfl
@[simp] theorem foldPay_flagInwin (len : Nat) (s : State) :
    (foldPay len s).flagInwin = s.flagInwin := rfl
@[simp] theorem foldPay_flagIsfec (len : Nat) (s : State) :
    (foldPay len s).flagIsfec = s.flagIsfec := rfl
@[simp] theorem foldPay_flagBit (len : Nat) (s : State) : (foldPay len s).flagBit = s.flagBit := rfl
@[simp] theorem foldPay_flagBuserr (len : Nat) (s : State) :
    (foldPay len s).flagBuserr = s.flagBuserr := rfl
@[simp] theorem foldPay_flagSticky (len : Nat) (s : State) :
    (foldPay len s).flagSticky = s.flagSticky := rfl
@[simp] theorem foldPay_res (len : Nat) (s : State) : (foldPay len s).res = s.res := rfl
@[simp] theorem foldPay_errcmd (len : Nat) (s : State) : (foldPay len s).errcmd = s.errcmd := rfl
@[simp] theorem foldPay_inLen (len : Nat) (s : State) : (foldPay len s).inLen = s.inLen := rfl
@[simp] theorem foldPay_outLen (len : Nat) (s : State) : (foldPay len s).outLen = s.outLen := rfl
@[simp] theorem foldPay_mem (len : Nat) (s : State) :
    (foldPay len s).mem = memWriteBytes s.mem Config.paccBase (paccFolded (len - Config.hdrLen) s) := rfl
@[simp] theorem foldPay_host (len : Nat) (s : State) : (foldPay len s).host = s.host := rfl
@[simp] theorem foldPay_busData (len : Nat) (s : State) : (foldPay len s).busData = s.busData := rfl
@[simp] theorem foldPay_epoch (len : Nat) (s : State) : (foldPay len s).epoch = s.epoch := rfl

/-! ### setIslong -/

@[simp] theorem setIslong_fecPt (l : Bool) (s : State) : (setIslong l s).fecPt = s.fecPt := rfl
@[simp] theorem setIslong_fecSeq (l : Bool) (s : State) : (setIslong l s).fecSeq = s.fecSeq := rfl
@[simp] theorem setIslong_hacc (l : Bool) (s : State) : (setIslong l s).hacc = s.hacc := rfl
@[simp] theorem setIslong_fcnt (l : Bool) (s : State) : (setIslong l s).fcnt = s.fcnt := rfl
@[simp] theorem setIslong_pmax (l : Bool) (s : State) : (setIslong l s).pmax = s.pmax := rfl
@[simp] theorem setIslong_prot (l : Bool) (s : State) : (setIslong l s).prot = s.prot := rfl
@[simp] theorem setIslong_lastTs (l : Bool) (s : State) : (setIslong l s).lastTs = s.lastTs := rfl
@[simp] theorem setIslong_lastSsrc (l : Bool) (s : State) :
    (setIslong l s).lastSsrc = s.lastSsrc := rfl
@[simp] theorem setIslong_fecSsrc (l : Bool) (s : State) :
    (setIslong l s).fecSsrc = s.fecSsrc := rfl
@[simp] theorem setIslong_mask (l : Bool) (s : State) : (setIslong l s).mask = s.mask := rfl
@[simp] theorem setIslong_islong (l : Bool) (s : State) : (setIslong l s).islong = l := rfl
@[simp] theorem setIslong_mw (l : Bool) (s : State) : (setIslong l s).mw = s.mw := rfl
@[simp] theorem setIslong_snbase (l : Bool) (s : State) : (setIslong l s).snbase = s.snbase := rfl
@[simp] theorem setIslong_snbValid (l : Bool) (s : State) :
    (setIslong l s).snbValid = s.snbValid := rfl
@[simp] theorem setIslong_off (l : Bool) (s : State) : (setIslong l s).off = s.off := rfl
@[simp] theorem setIslong_rtpB0 (l : Bool) (s : State) : (setIslong l s).rtpB0 = s.rtpB0 := rfl
@[simp] theorem setIslong_rtpB1 (l : Bool) (s : State) : (setIslong l s).rtpB1 = s.rtpB1 := rfl
@[simp] theorem setIslong_rtpSn (l : Bool) (s : State) : (setIslong l s).rtpSn = s.rtpSn := rfl
@[simp] theorem setIslong_rtpTs (l : Bool) (s : State) : (setIslong l s).rtpTs = s.rtpTs := rfl
@[simp] theorem setIslong_rtpSsrc (l : Bool) (s : State) :
    (setIslong l s).rtpSsrc = s.rtpSsrc := rfl
@[simp] theorem setIslong_rtpPlen (l : Bool) (s : State) :
    (setIslong l s).rtpPlen = s.rtpPlen := rfl
@[simp] theorem setIslong_err (l : Bool) (s : State) : (setIslong l s).err = s.err := rfl
@[simp] theorem setIslong_flagNone (l : Bool) (s : State) :
    (setIslong l s).flagNone = s.flagNone := rfl
@[simp] theorem setIslong_flagInwin (l : Bool) (s : State) :
    (setIslong l s).flagInwin = s.flagInwin := rfl
@[simp] theorem setIslong_flagIsfec (l : Bool) (s : State) :
    (setIslong l s).flagIsfec = s.flagIsfec := rfl
@[simp] theorem setIslong_flagBit (l : Bool) (s : State) :
    (setIslong l s).flagBit = s.flagBit := rfl
@[simp] theorem setIslong_flagBuserr (l : Bool) (s : State) :
    (setIslong l s).flagBuserr = s.flagBuserr := rfl
@[simp] theorem setIslong_flagSticky (l : Bool) (s : State) :
    (setIslong l s).flagSticky = s.flagSticky := rfl
@[simp] theorem setIslong_res (l : Bool) (s : State) : (setIslong l s).res = flagWord l := rfl
@[simp] theorem setIslong_errcmd (l : Bool) (s : State) : (setIslong l s).errcmd = s.errcmd := rfl
@[simp] theorem setIslong_inLen (l : Bool) (s : State) : (setIslong l s).inLen = s.inLen := rfl
@[simp] theorem setIslong_outLen (l : Bool) (s : State) : (setIslong l s).outLen = s.outLen := rfl
@[simp] theorem setIslong_mem (l : Bool) (s : State) : (setIslong l s).mem = s.mem := rfl
@[simp] theorem setIslong_host (l : Bool) (s : State) : (setIslong l s).host = s.host := rfl
@[simp] theorem setIslong_busData (l : Bool) (s : State) :
    (setIslong l s).busData = s.busData := rfl
@[simp] theorem setIslong_epoch (l : Bool) (s : State) : (setIslong l s).epoch = s.epoch := rfl
@[simp] theorem byteAt_setIslong (l : Bool) (s : State) (a : Nat) :
    byteAt (setIslong l s) a = byteAt s a := rfl
@[simp] theorem inByte_setIslong (l : Bool) (s : State) (a : Nat) :
    inByte (setIslong l s) a = inByte s a := rfl
@[simp] theorem outByte_setIslong (l : Bool) (s : State) (a : Nat) :
    outByte (setIslong l s) a = outByte s a := rfl
@[simp] theorem paccByte_setIslong (l : Bool) (s : State) (a : Nat) :
    paccByte (setIslong l s) a = paccByte s a := rfl
@[simp] theorem inBE16_setIslong (l : Bool) (s : State) (a : Nat) :
    inBE16 (setIslong l s) a = inBE16 s a := rfl
@[simp] theorem inBE32_setIslong (l : Bool) (s : State) (a : Nat) :
    inBE32 (setIslong l s) a = inBE32 s a := rfl

/-! ### snOff -/

@[simp] theorem snOff_fecPt (sn : Half) (s : State) : (snOff sn s).fecPt = s.fecPt := rfl
@[simp] theorem snOff_fecSeq (sn : Half) (s : State) : (snOff sn s).fecSeq = s.fecSeq := rfl
@[simp] theorem snOff_hacc (sn : Half) (s : State) : (snOff sn s).hacc = s.hacc := rfl
@[simp] theorem snOff_fcnt (sn : Half) (s : State) : (snOff sn s).fcnt = s.fcnt := rfl
@[simp] theorem snOff_pmax (sn : Half) (s : State) : (snOff sn s).pmax = s.pmax := rfl
@[simp] theorem snOff_prot (sn : Half) (s : State) : (snOff sn s).prot = s.prot := rfl
@[simp] theorem snOff_lastTs (sn : Half) (s : State) : (snOff sn s).lastTs = s.lastTs := rfl
@[simp] theorem snOff_lastSsrc (sn : Half) (s : State) : (snOff sn s).lastSsrc = s.lastSsrc := rfl
@[simp] theorem snOff_fecSsrc (sn : Half) (s : State) : (snOff sn s).fecSsrc = s.fecSsrc := rfl
@[simp] theorem snOff_mask (sn : Half) (s : State) : (snOff sn s).mask = s.mask := rfl
@[simp] theorem snOff_islong (sn : Half) (s : State) : (snOff sn s).islong = s.islong := rfl
@[simp] theorem snOff_mw (sn : Half) (s : State) : (snOff sn s).mw = s.mw := rfl
@[simp] theorem snOff_snbase (sn : Half) (s : State) : (snOff sn s).snbase = s.snbase := rfl
@[simp] theorem snOff_snbValid (sn : Half) (s : State) : (snOff sn s).snbValid = s.snbValid := rfl
@[simp] theorem snOff_off (sn : Half) (s : State) : (snOff sn s).off = offsetOf sn s.snbase := rfl
@[simp] theorem snOff_rtpB0 (sn : Half) (s : State) : (snOff sn s).rtpB0 = s.rtpB0 := rfl
@[simp] theorem snOff_rtpB1 (sn : Half) (s : State) : (snOff sn s).rtpB1 = s.rtpB1 := rfl
@[simp] theorem snOff_rtpSn (sn : Half) (s : State) : (snOff sn s).rtpSn = s.rtpSn := rfl
@[simp] theorem snOff_rtpTs (sn : Half) (s : State) : (snOff sn s).rtpTs = s.rtpTs := rfl
@[simp] theorem snOff_rtpSsrc (sn : Half) (s : State) : (snOff sn s).rtpSsrc = s.rtpSsrc := rfl
@[simp] theorem snOff_rtpPlen (sn : Half) (s : State) : (snOff sn s).rtpPlen = s.rtpPlen := rfl
@[simp] theorem snOff_err (sn : Half) (s : State) : (snOff sn s).err = s.err := rfl
@[simp] theorem snOff_flagNone (sn : Half) (s : State) : (snOff sn s).flagNone = s.flagNone := rfl
@[simp] theorem snOff_flagInwin (sn : Half) (s : State) :
    (snOff sn s).flagInwin = inWindow s.islong (offsetOf sn s.snbase) := rfl
@[simp] theorem snOff_flagIsfec (sn : Half) (s : State) :
    (snOff sn s).flagIsfec = s.flagIsfec := rfl
@[simp] theorem snOff_flagBit (sn : Half) (s : State) : (snOff sn s).flagBit = s.flagBit := rfl
@[simp] theorem snOff_flagBuserr (sn : Half) (s : State) :
    (snOff sn s).flagBuserr = s.flagBuserr := rfl
@[simp] theorem snOff_flagSticky (sn : Half) (s : State) :
    (snOff sn s).flagSticky = s.flagSticky := rfl
@[simp] theorem snOff_res (sn : Half) (s : State) :
    (snOff sn s).res = (offsetOf sn s.snbase).setWidth 32 := rfl
@[simp] theorem snOff_errcmd (sn : Half) (s : State) : (snOff sn s).errcmd = s.errcmd := rfl
@[simp] theorem snOff_inLen (sn : Half) (s : State) : (snOff sn s).inLen = s.inLen := rfl
@[simp] theorem snOff_outLen (sn : Half) (s : State) : (snOff sn s).outLen = s.outLen := rfl
@[simp] theorem snOff_mem (sn : Half) (s : State) : (snOff sn s).mem = s.mem := rfl
@[simp] theorem snOff_host (sn : Half) (s : State) : (snOff sn s).host = s.host := rfl
@[simp] theorem snOff_busData (sn : Half) (s : State) : (snOff sn s).busData = s.busData := rfl
@[simp] theorem snOff_epoch (sn : Half) (s : State) : (snOff sn s).epoch = s.epoch := rfl
@[simp] theorem byteAt_snOff (sn : Half) (s : State) (a : Nat) :
    byteAt (snOff sn s) a = byteAt s a := rfl
@[simp] theorem inByte_snOff (sn : Half) (s : State) (a : Nat) :
    inByte (snOff sn s) a = inByte s a := rfl
@[simp] theorem outByte_snOff (sn : Half) (s : State) (a : Nat) :
    outByte (snOff sn s) a = outByte s a := rfl
@[simp] theorem paccByte_snOff (sn : Half) (s : State) (a : Nat) :
    paccByte (snOff sn s) a = paccByte s a := rfl
@[simp] theorem inBE16_snOff (sn : Half) (s : State) (a : Nat) :
    inBE16 (snOff sn s) a = inBE16 s a := rfl
@[simp] theorem inBE32_snOff (sn : Half) (s : State) (a : Nat) :
    inBE32 (snOff sn s) a = inBE32 s a := rfl

/-! ### snAdd -/

@[simp] theorem snAdd_fecPt (k : Half) (s : State) : (snAdd k s).fecPt = s.fecPt := rfl
@[simp] theorem snAdd_fecSeq (k : Half) (s : State) : (snAdd k s).fecSeq = s.fecSeq := rfl
@[simp] theorem snAdd_hacc (k : Half) (s : State) : (snAdd k s).hacc = s.hacc := rfl
@[simp] theorem snAdd_fcnt (k : Half) (s : State) : (snAdd k s).fcnt = s.fcnt := rfl
@[simp] theorem snAdd_pmax (k : Half) (s : State) : (snAdd k s).pmax = s.pmax := rfl
@[simp] theorem snAdd_prot (k : Half) (s : State) : (snAdd k s).prot = s.prot := rfl
@[simp] theorem snAdd_lastTs (k : Half) (s : State) : (snAdd k s).lastTs = s.lastTs := rfl
@[simp] theorem snAdd_lastSsrc (k : Half) (s : State) : (snAdd k s).lastSsrc = s.lastSsrc := rfl
@[simp] theorem snAdd_fecSsrc (k : Half) (s : State) : (snAdd k s).fecSsrc = s.fecSsrc := rfl
@[simp] theorem snAdd_mask (k : Half) (s : State) : (snAdd k s).mask = s.mask := rfl
@[simp] theorem snAdd_islong (k : Half) (s : State) : (snAdd k s).islong = s.islong := rfl
@[simp] theorem snAdd_mw (k : Half) (s : State) : (snAdd k s).mw = s.mw := rfl
@[simp] theorem snAdd_snbase (k : Half) (s : State) : (snAdd k s).snbase = s.snbase := rfl
@[simp] theorem snAdd_snbValid (k : Half) (s : State) : (snAdd k s).snbValid = s.snbValid := rfl
@[simp] theorem snAdd_off (k : Half) (s : State) : (snAdd k s).off = s.off := rfl
@[simp] theorem snAdd_rtpB0 (k : Half) (s : State) : (snAdd k s).rtpB0 = s.rtpB0 := rfl
@[simp] theorem snAdd_rtpB1 (k : Half) (s : State) : (snAdd k s).rtpB1 = s.rtpB1 := rfl
@[simp] theorem snAdd_rtpSn (k : Half) (s : State) : (snAdd k s).rtpSn = s.rtpSn := rfl
@[simp] theorem snAdd_rtpTs (k : Half) (s : State) : (snAdd k s).rtpTs = s.rtpTs := rfl
@[simp] theorem snAdd_rtpSsrc (k : Half) (s : State) : (snAdd k s).rtpSsrc = s.rtpSsrc := rfl
@[simp] theorem snAdd_rtpPlen (k : Half) (s : State) : (snAdd k s).rtpPlen = s.rtpPlen := rfl
@[simp] theorem snAdd_err (k : Half) (s : State) : (snAdd k s).err = s.err := rfl
@[simp] theorem snAdd_flagNone (k : Half) (s : State) : (snAdd k s).flagNone = s.flagNone := rfl
@[simp] theorem snAdd_flagInwin (k : Half) (s : State) : (snAdd k s).flagInwin = s.flagInwin := rfl
@[simp] theorem snAdd_flagIsfec (k : Half) (s : State) : (snAdd k s).flagIsfec = s.flagIsfec := rfl
@[simp] theorem snAdd_flagBit (k : Half) (s : State) : (snAdd k s).flagBit = s.flagBit := rfl
@[simp] theorem snAdd_flagBuserr (k : Half) (s : State) :
    (snAdd k s).flagBuserr = s.flagBuserr := rfl
@[simp] theorem snAdd_flagSticky (k : Half) (s : State) :
    (snAdd k s).flagSticky = s.flagSticky := rfl
@[simp] theorem snAdd_res (k : Half) (s : State) :
    (snAdd k s).res = (s.snbase + k).setWidth 32 := rfl
@[simp] theorem snAdd_errcmd (k : Half) (s : State) : (snAdd k s).errcmd = s.errcmd := rfl
@[simp] theorem snAdd_inLen (k : Half) (s : State) : (snAdd k s).inLen = s.inLen := rfl
@[simp] theorem snAdd_outLen (k : Half) (s : State) : (snAdd k s).outLen = s.outLen := rfl
@[simp] theorem snAdd_mem (k : Half) (s : State) : (snAdd k s).mem = s.mem := rfl
@[simp] theorem snAdd_host (k : Half) (s : State) : (snAdd k s).host = s.host := rfl
@[simp] theorem snAdd_busData (k : Half) (s : State) : (snAdd k s).busData = s.busData := rfl
@[simp] theorem snAdd_epoch (k : Half) (s : State) : (snAdd k s).epoch = s.epoch := rfl
@[simp] theorem byteAt_snAdd (k : Half) (s : State) (a : Nat) :
    byteAt (snAdd k s) a = byteAt s a := rfl
@[simp] theorem inByte_snAdd (k : Half) (s : State) (a : Nat) :
    inByte (snAdd k s) a = inByte s a := rfl
@[simp] theorem outByte_snAdd (k : Half) (s : State) (a : Nat) :
    outByte (snAdd k s) a = outByte s a := rfl
@[simp] theorem paccByte_snAdd (k : Half) (s : State) (a : Nat) :
    paccByte (snAdd k s) a = paccByte s a := rfl
@[simp] theorem inBE16_snAdd (k : Half) (s : State) (a : Nat) :
    inBE16 (snAdd k s) a = inBE16 s a := rfl
@[simp] theorem inBE32_snAdd (k : Half) (s : State) (a : Nat) :
    inBE32 (snAdd k s) a = inBE32 s a := rfl

/-! ### snSetbase -/

@[simp] theorem snSetbase_fecPt (sn : Half) (s : State) : (snSetbase sn s).fecPt = s.fecPt := rfl
@[simp] theorem snSetbase_fecSeq (sn : Half) (s : State) : (snSetbase sn s).fecSeq = s.fecSeq := rfl
@[simp] theorem snSetbase_hacc (sn : Half) (s : State) : (snSetbase sn s).hacc = s.hacc := rfl
@[simp] theorem snSetbase_fcnt (sn : Half) (s : State) : (snSetbase sn s).fcnt = s.fcnt := rfl
@[simp] theorem snSetbase_pmax (sn : Half) (s : State) : (snSetbase sn s).pmax = s.pmax := rfl
@[simp] theorem snSetbase_prot (sn : Half) (s : State) : (snSetbase sn s).prot = s.prot := rfl
@[simp] theorem snSetbase_lastTs (sn : Half) (s : State) : (snSetbase sn s).lastTs = s.lastTs := rfl
@[simp] theorem snSetbase_lastSsrc (sn : Half) (s : State) :
    (snSetbase sn s).lastSsrc = s.lastSsrc := rfl
@[simp] theorem snSetbase_fecSsrc (sn : Half) (s : State) :
    (snSetbase sn s).fecSsrc = s.fecSsrc := rfl
@[simp] theorem snSetbase_mask (sn : Half) (s : State) : (snSetbase sn s).mask = s.mask := rfl
@[simp] theorem snSetbase_islong (sn : Half) (s : State) : (snSetbase sn s).islong = s.islong := rfl
@[simp] theorem snSetbase_mw (sn : Half) (s : State) : (snSetbase sn s).mw = s.mw := rfl
@[simp] theorem snSetbase_snbase (sn : Half) (s : State) : (snSetbase sn s).snbase = sn := rfl
@[simp] theorem snSetbase_snbValid (sn : Half) (s : State) : (snSetbase sn s).snbValid = true := rfl
@[simp] theorem snSetbase_off (sn : Half) (s : State) : (snSetbase sn s).off = s.off := rfl
@[simp] theorem snSetbase_rtpB0 (sn : Half) (s : State) : (snSetbase sn s).rtpB0 = s.rtpB0 := rfl
@[simp] theorem snSetbase_rtpB1 (sn : Half) (s : State) : (snSetbase sn s).rtpB1 = s.rtpB1 := rfl
@[simp] theorem snSetbase_rtpSn (sn : Half) (s : State) : (snSetbase sn s).rtpSn = s.rtpSn := rfl
@[simp] theorem snSetbase_rtpTs (sn : Half) (s : State) : (snSetbase sn s).rtpTs = s.rtpTs := rfl
@[simp] theorem snSetbase_rtpSsrc (sn : Half) (s : State) :
    (snSetbase sn s).rtpSsrc = s.rtpSsrc := rfl
@[simp] theorem snSetbase_rtpPlen (sn : Half) (s : State) :
    (snSetbase sn s).rtpPlen = s.rtpPlen := rfl
@[simp] theorem snSetbase_err (sn : Half) (s : State) : (snSetbase sn s).err = s.err := rfl
@[simp] theorem snSetbase_flagNone (sn : Half) (s : State) :
    (snSetbase sn s).flagNone = s.flagNone := rfl
@[simp] theorem snSetbase_flagInwin (sn : Half) (s : State) :
    (snSetbase sn s).flagInwin = s.flagInwin := rfl
@[simp] theorem snSetbase_flagIsfec (sn : Half) (s : State) :
    (snSetbase sn s).flagIsfec = s.flagIsfec := rfl
@[simp] theorem snSetbase_flagBit (sn : Half) (s : State) :
    (snSetbase sn s).flagBit = s.flagBit := rfl
@[simp] theorem snSetbase_flagBuserr (sn : Half) (s : State) :
    (snSetbase sn s).flagBuserr = s.flagBuserr := rfl
@[simp] theorem snSetbase_flagSticky (sn : Half) (s : State) :
    (snSetbase sn s).flagSticky = s.flagSticky := rfl
@[simp] theorem snSetbase_res (sn : Half) (s : State) : (snSetbase sn s).res = s.res := rfl
@[simp] theorem snSetbase_errcmd (sn : Half) (s : State) : (snSetbase sn s).errcmd = s.errcmd := rfl
@[simp] theorem snSetbase_inLen (sn : Half) (s : State) : (snSetbase sn s).inLen = s.inLen := rfl
@[simp] theorem snSetbase_outLen (sn : Half) (s : State) : (snSetbase sn s).outLen = s.outLen := rfl
@[simp] theorem snSetbase_mem (sn : Half) (s : State) : (snSetbase sn s).mem = s.mem := rfl
@[simp] theorem snSetbase_host (sn : Half) (s : State) : (snSetbase sn s).host = s.host := rfl
@[simp] theorem snSetbase_busData (sn : Half) (s : State) :
    (snSetbase sn s).busData = s.busData := rfl
@[simp] theorem snSetbase_epoch (sn : Half) (s : State) : (snSetbase sn s).epoch = s.epoch := rfl
@[simp] theorem byteAt_snSetbase (sn : Half) (s : State) (a : Nat) :
    byteAt (snSetbase sn s) a = byteAt s a := rfl
@[simp] theorem inByte_snSetbase (sn : Half) (s : State) (a : Nat) :
    inByte (snSetbase sn s) a = inByte s a := rfl
@[simp] theorem outByte_snSetbase (sn : Half) (s : State) (a : Nat) :
    outByte (snSetbase sn s) a = outByte s a := rfl
@[simp] theorem paccByte_snSetbase (sn : Half) (s : State) (a : Nat) :
    paccByte (snSetbase sn s) a = paccByte s a := rfl
@[simp] theorem inBE16_snSetbase (sn : Half) (s : State) (a : Nat) :
    inBE16 (snSetbase sn s) a = inBE16 s a := rfl
@[simp] theorem inBE32_snSetbase (sn : Half) (s : State) (a : Nat) :
    inBE32 (snSetbase sn s) a = inBE32 s a := rfl

/-! ### rtpFields -/

@[simp] theorem rtpFields_fecPt (len : Nat) (s : State) : (rtpFields len s).fecPt = s.fecPt := rfl
@[simp] theorem rtpFields_fecSeq (len : Nat) (s : State) :
    (rtpFields len s).fecSeq = s.fecSeq := rfl
@[simp] theorem rtpFields_hacc (len : Nat) (s : State) : (rtpFields len s).hacc = s.hacc := rfl
@[simp] theorem rtpFields_fcnt (len : Nat) (s : State) : (rtpFields len s).fcnt = s.fcnt := rfl
@[simp] theorem rtpFields_pmax (len : Nat) (s : State) : (rtpFields len s).pmax = s.pmax := rfl
@[simp] theorem rtpFields_prot (len : Nat) (s : State) : (rtpFields len s).prot = s.prot := rfl
@[simp] theorem rtpFields_lastTs (len : Nat) (s : State) :
    (rtpFields len s).lastTs = s.lastTs := rfl
@[simp] theorem rtpFields_lastSsrc (len : Nat) (s : State) :
    (rtpFields len s).lastSsrc = s.lastSsrc := rfl
@[simp] theorem rtpFields_fecSsrc (len : Nat) (s : State) :
    (rtpFields len s).fecSsrc = s.fecSsrc := rfl
@[simp] theorem rtpFields_mask (len : Nat) (s : State) : (rtpFields len s).mask = s.mask := rfl
@[simp] theorem rtpFields_islong (len : Nat) (s : State) :
    (rtpFields len s).islong = s.islong := rfl
@[simp] theorem rtpFields_mw (len : Nat) (s : State) : (rtpFields len s).mw = s.mw := rfl
@[simp] theorem rtpFields_snbase (len : Nat) (s : State) :
    (rtpFields len s).snbase = s.snbase := rfl
@[simp] theorem rtpFields_snbValid (len : Nat) (s : State) :
    (rtpFields len s).snbValid = s.snbValid := rfl
@[simp] theorem rtpFields_off (len : Nat) (s : State) : (rtpFields len s).off = s.off := rfl
@[simp] theorem rtpFields_rtpB0 (len : Nat) (s : State) :
    (rtpFields len s).rtpB0 = inByte s 0 := rfl
@[simp] theorem rtpFields_rtpB1 (len : Nat) (s : State) :
    (rtpFields len s).rtpB1 = inByte s 1 := rfl
@[simp] theorem rtpFields_rtpSn (len : Nat) (s : State) :
    (rtpFields len s).rtpSn = inBE16 s 2 := rfl
@[simp] theorem rtpFields_rtpTs (len : Nat) (s : State) :
    (rtpFields len s).rtpTs = inBE32 s 4 := rfl
@[simp] theorem rtpFields_rtpSsrc (len : Nat) (s : State) :
    (rtpFields len s).rtpSsrc = inBE32 s 8 := rfl
@[simp] theorem rtpFields_rtpPlen (len : Nat) (s : State) :
    (rtpFields len s).rtpPlen = BitVec.ofNat 16 (len - Config.hdrLen) := rfl
@[simp] theorem rtpFields_err (len : Nat) (s : State) : (rtpFields len s).err = s.err := rfl
@[simp] theorem rtpFields_flagNone (len : Nat) (s : State) :
    (rtpFields len s).flagNone = s.flagNone := rfl
@[simp] theorem rtpFields_flagInwin (len : Nat) (s : State) :
    (rtpFields len s).flagInwin = s.flagInwin := rfl
@[simp] theorem rtpFields_flagIsfec (len : Nat) (s : State) :
    (rtpFields len s).flagIsfec = isFecCandidate s.fecPt (inByte s 1) := rfl
@[simp] theorem rtpFields_flagBit (len : Nat) (s : State) :
    (rtpFields len s).flagBit = s.flagBit := rfl
@[simp] theorem rtpFields_flagBuserr (len : Nat) (s : State) :
    (rtpFields len s).flagBuserr = s.flagBuserr := rfl
@[simp] theorem rtpFields_flagSticky (len : Nat) (s : State) :
    (rtpFields len s).flagSticky = s.flagSticky := rfl
@[simp] theorem rtpFields_res (len : Nat) (s : State) :
    (rtpFields len s).res = flagWord (isFecCandidate s.fecPt (inByte s 1)) := rfl
@[simp] theorem rtpFields_errcmd (len : Nat) (s : State) :
    (rtpFields len s).errcmd = s.errcmd := rfl
@[simp] theorem rtpFields_inLen (len : Nat) (s : State) : (rtpFields len s).inLen = s.inLen := rfl
@[simp] theorem rtpFields_outLen (len : Nat) (s : State) :
    (rtpFields len s).outLen = s.outLen := rfl
@[simp] theorem rtpFields_mem (len : Nat) (s : State) : (rtpFields len s).mem = s.mem := rfl
@[simp] theorem rtpFields_host (len : Nat) (s : State) : (rtpFields len s).host = s.host := rfl
@[simp] theorem rtpFields_busData (len : Nat) (s : State) :
    (rtpFields len s).busData = s.busData := rfl
@[simp] theorem rtpFields_epoch (len : Nat) (s : State) : (rtpFields len s).epoch = s.epoch := rfl
@[simp] theorem byteAt_rtpFields (len : Nat) (s : State) (a : Nat) :
    byteAt (rtpFields len s) a = byteAt s a := rfl
@[simp] theorem inByte_rtpFields (len : Nat) (s : State) (a : Nat) :
    inByte (rtpFields len s) a = inByte s a := rfl
@[simp] theorem outByte_rtpFields (len : Nat) (s : State) (a : Nat) :
    outByte (rtpFields len s) a = outByte s a := rfl
@[simp] theorem paccByte_rtpFields (len : Nat) (s : State) (a : Nat) :
    paccByte (rtpFields len s) a = paccByte s a := rfl
@[simp] theorem inBE16_rtpFields (len : Nat) (s : State) (a : Nat) :
    inBE16 (rtpFields len s) a = inBE16 s a := rfl
@[simp] theorem inBE32_rtpFields (len : Nat) (s : State) (a : Nat) :
    inBE32 (rtpFields len s) a = inBE32 s a := rfl

/-! ### fecEmit -/

@[simp] theorem fecEmit_fecPt (style : Config.PadStyle) (loc : Config.PadFlagLoc) (s : State) :
    (fecEmit style loc s).fecPt = s.fecPt := rfl
@[simp] theorem fecEmit_fecSeq (style : Config.PadStyle) (loc : Config.PadFlagLoc) (s : State) :
    (fecEmit style loc s).fecSeq = s.fecSeq + 1 := rfl
@[simp] theorem fecEmit_hacc (style : Config.PadStyle) (loc : Config.PadFlagLoc) (s : State) :
    (fecEmit style loc s).hacc = s.hacc := rfl
@[simp] theorem fecEmit_fcnt (style : Config.PadStyle) (loc : Config.PadFlagLoc) (s : State) :
    (fecEmit style loc s).fcnt = s.fcnt := rfl
@[simp] theorem fecEmit_pmax (style : Config.PadStyle) (loc : Config.PadFlagLoc) (s : State) :
    (fecEmit style loc s).pmax = s.pmax := rfl
@[simp] theorem fecEmit_prot (style : Config.PadStyle) (loc : Config.PadFlagLoc) (s : State) :
    (fecEmit style loc s).prot = s.prot := rfl
@[simp] theorem fecEmit_lastTs (style : Config.PadStyle) (loc : Config.PadFlagLoc) (s : State) :
    (fecEmit style loc s).lastTs = s.lastTs := rfl
@[simp] theorem fecEmit_lastSsrc (style : Config.PadStyle) (loc : Config.PadFlagLoc) (s : State) :
    (fecEmit style loc s).lastSsrc = s.lastSsrc := rfl
@[simp] theorem fecEmit_fecSsrc (style : Config.PadStyle) (loc : Config.PadFlagLoc) (s : State) :
    (fecEmit style loc s).fecSsrc = s.fecSsrc := rfl
@[simp] theorem fecEmit_mask (style : Config.PadStyle) (loc : Config.PadFlagLoc) (s : State) :
    (fecEmit style loc s).mask = s.mask := rfl
@[simp] theorem fecEmit_islong (style : Config.PadStyle) (loc : Config.PadFlagLoc) (s : State) :
    (fecEmit style loc s).islong = s.islong := rfl
@[simp] theorem fecEmit_mw (style : Config.PadStyle) (loc : Config.PadFlagLoc) (s : State) :
    (fecEmit style loc s).mw = s.mw := rfl
@[simp] theorem fecEmit_snbase (style : Config.PadStyle) (loc : Config.PadFlagLoc) (s : State) :
    (fecEmit style loc s).snbase = s.snbase := rfl
@[simp] theorem fecEmit_snbValid (style : Config.PadStyle) (loc : Config.PadFlagLoc) (s : State) :
    (fecEmit style loc s).snbValid = s.snbValid := rfl
@[simp] theorem fecEmit_off (style : Config.PadStyle) (loc : Config.PadFlagLoc) (s : State) :
    (fecEmit style loc s).off = s.off := rfl
@[simp] theorem fecEmit_rtpB0 (style : Config.PadStyle) (loc : Config.PadFlagLoc) (s : State) :
    (fecEmit style loc s).rtpB0 = s.rtpB0 := rfl
@[simp] theorem fecEmit_rtpB1 (style : Config.PadStyle) (loc : Config.PadFlagLoc) (s : State) :
    (fecEmit style loc s).rtpB1 = s.rtpB1 := rfl
@[simp] theorem fecEmit_rtpSn (style : Config.PadStyle) (loc : Config.PadFlagLoc) (s : State) :
    (fecEmit style loc s).rtpSn = s.rtpSn := rfl
@[simp] theorem fecEmit_rtpTs (style : Config.PadStyle) (loc : Config.PadFlagLoc) (s : State) :
    (fecEmit style loc s).rtpTs = s.rtpTs := rfl
@[simp] theorem fecEmit_rtpSsrc (style : Config.PadStyle) (loc : Config.PadFlagLoc) (s : State) :
    (fecEmit style loc s).rtpSsrc = s.rtpSsrc := rfl
@[simp] theorem fecEmit_rtpPlen (style : Config.PadStyle) (loc : Config.PadFlagLoc) (s : State) :
    (fecEmit style loc s).rtpPlen = s.rtpPlen := rfl
@[simp] theorem fecEmit_err (style : Config.PadStyle) (loc : Config.PadFlagLoc) (s : State) :
    (fecEmit style loc s).err = s.err := rfl
@[simp] theorem fecEmit_flagNone (style : Config.PadStyle) (loc : Config.PadFlagLoc) (s : State) :
    (fecEmit style loc s).flagNone = s.flagNone := rfl
@[simp] theorem fecEmit_flagInwin (style : Config.PadStyle) (loc : Config.PadFlagLoc) (s : State) :
    (fecEmit style loc s).flagInwin = s.flagInwin := rfl
@[simp] theorem fecEmit_flagIsfec (style : Config.PadStyle) (loc : Config.PadFlagLoc) (s : State) :
    (fecEmit style loc s).flagIsfec = s.flagIsfec := rfl
@[simp] theorem fecEmit_flagBit (style : Config.PadStyle) (loc : Config.PadFlagLoc) (s : State) :
    (fecEmit style loc s).flagBit = s.flagBit := rfl
@[simp] theorem fecEmit_flagBuserr (style : Config.PadStyle) (loc : Config.PadFlagLoc) (s : State) :
    (fecEmit style loc s).flagBuserr = s.flagBuserr := rfl
@[simp] theorem fecEmit_flagSticky (style : Config.PadStyle) (loc : Config.PadFlagLoc) (s : State) :
    (fecEmit style loc s).flagSticky = s.flagSticky := rfl
@[simp] theorem fecEmit_res (style : Config.PadStyle) (loc : Config.PadFlagLoc) (s : State) :
    (fecEmit style loc s).res = BitVec.ofNat 32 (fecPacketLen style s) := rfl
@[simp] theorem fecEmit_errcmd (style : Config.PadStyle) (loc : Config.PadFlagLoc) (s : State) :
    (fecEmit style loc s).errcmd = s.errcmd := rfl
@[simp] theorem fecEmit_inLen (style : Config.PadStyle) (loc : Config.PadFlagLoc) (s : State) :
    (fecEmit style loc s).inLen = s.inLen := rfl
@[simp] theorem fecEmit_outLen (style : Config.PadStyle) (loc : Config.PadFlagLoc) (s : State) :
    (fecEmit style loc s).outLen = BitVec.ofNat 16 (fecPacketLen style s) := rfl
@[simp] theorem fecEmit_mem (style : Config.PadStyle) (loc : Config.PadFlagLoc) (s : State) :
    (fecEmit style loc s).mem = memWriteBytes s.mem Config.outBase (fecPacket style loc s) := by rw [fecEmit]
@[simp] theorem fecEmit_host (style : Config.PadStyle) (loc : Config.PadFlagLoc) (s : State) :
    (fecEmit style loc s).host = s.host := rfl
@[simp] theorem fecEmit_busData (style : Config.PadStyle) (loc : Config.PadFlagLoc) (s : State) :
    (fecEmit style loc s).busData = s.busData := rfl
@[simp] theorem fecEmit_epoch (style : Config.PadStyle) (loc : Config.PadFlagLoc) (s : State) :
    (fecEmit style loc s).epoch = s.epoch := rfl

/-! ### fecLoad -/

@[simp] theorem fecLoad_fecPt (s : State) : (fecLoad s).fecPt = s.fecPt := rfl
@[simp] theorem fecLoad_fecSeq (s : State) : (fecLoad s).fecSeq = s.fecSeq := rfl
@[simp] theorem fecLoad_hacc (s : State) : (fecLoad s).hacc = fecHaccLoaded s := rfl
@[simp] theorem fecLoad_fcnt (s : State) : (fecLoad s).fcnt = 0 := rfl
@[simp] theorem fecLoad_pmax (s : State) : (fecLoad s).pmax = BitVec.ofNat 16 (fecProtLen s) := rfl
@[simp] theorem fecLoad_prot (s : State) : (fecLoad s).prot = BitVec.ofNat 16 (fecProtLen s) := rfl
@[simp] theorem fecLoad_lastTs (s : State) : (fecLoad s).lastTs = s.lastTs := rfl
@[simp] theorem fecLoad_lastSsrc (s : State) : (fecLoad s).lastSsrc = s.lastSsrc := rfl
@[simp] theorem fecLoad_fecSsrc (s : State) : (fecLoad s).fecSsrc = inBE32 s 8 := rfl
@[simp] theorem fecLoad_mask (s : State) :
    (fecLoad s).mask = maskRead (inByte s 24) (inByte s 25) (inByte s 26) (inByte s 27) (inByte s 28) (inByte s 29) (fecLongFlag s) := rfl
@[simp] theorem fecLoad_islong (s : State) : (fecLoad s).islong = fecLongFlag s := rfl
@[simp] theorem fecLoad_mw (s : State) : (fecLoad s).mw = mwOf (fecMaskBytes s) := rfl
@[simp] theorem fecLoad_snbase (s : State) : (fecLoad s).snbase = inBE16 s 14 := rfl
@[simp] theorem fecLoad_snbValid (s : State) : (fecLoad s).snbValid = true := rfl
@[simp] theorem fecLoad_off (s : State) : (fecLoad s).off = s.off := rfl
@[simp] theorem fecLoad_rtpB0 (s : State) : (fecLoad s).rtpB0 = s.rtpB0 := rfl
@[simp] theorem fecLoad_rtpB1 (s : State) : (fecLoad s).rtpB1 = s.rtpB1 := rfl
@[simp] theorem fecLoad_rtpSn (s : State) : (fecLoad s).rtpSn = s.rtpSn := rfl
@[simp] theorem fecLoad_rtpTs (s : State) : (fecLoad s).rtpTs = s.rtpTs := rfl
@[simp] theorem fecLoad_rtpSsrc (s : State) : (fecLoad s).rtpSsrc = s.rtpSsrc := rfl
@[simp] theorem fecLoad_rtpPlen (s : State) : (fecLoad s).rtpPlen = s.rtpPlen := rfl
@[simp] theorem fecLoad_err (s : State) : (fecLoad s).err = s.err := rfl
@[simp] theorem fecLoad_flagNone (s : State) : (fecLoad s).flagNone = s.flagNone := rfl
@[simp] theorem fecLoad_flagInwin (s : State) : (fecLoad s).flagInwin = s.flagInwin := rfl
@[simp] theorem fecLoad_flagIsfec (s : State) : (fecLoad s).flagIsfec = s.flagIsfec := rfl
@[simp] theorem fecLoad_flagBit (s : State) : (fecLoad s).flagBit = s.flagBit := rfl
@[simp] theorem fecLoad_flagBuserr (s : State) : (fecLoad s).flagBuserr = s.flagBuserr := rfl
@[simp] theorem fecLoad_flagSticky (s : State) : (fecLoad s).flagSticky = s.flagSticky := rfl
@[simp] theorem fecLoad_res (s : State) : (fecLoad s).res = s.res := rfl
@[simp] theorem fecLoad_errcmd (s : State) : (fecLoad s).errcmd = s.errcmd := rfl
@[simp] theorem fecLoad_inLen (s : State) : (fecLoad s).inLen = s.inLen := rfl
@[simp] theorem fecLoad_outLen (s : State) : (fecLoad s).outLen = s.outLen := rfl
@[simp] theorem fecLoad_mem (s : State) :
    (fecLoad s).mem = memWriteBytes (memClearPacc s.mem) Config.paccBase (inBytesFrom s (24 + maskLen (fecLongFlag s)) (fecProtLen s)) := rfl
@[simp] theorem fecLoad_host (s : State) : (fecLoad s).host = s.host := rfl
@[simp] theorem fecLoad_busData (s : State) : (fecLoad s).busData = s.busData := rfl
@[simp] theorem fecLoad_epoch (s : State) : (fecLoad s).epoch = s.epoch := rfl

/-! ### recoverEmit -/

@[simp] theorem recoverEmit_fecPt (i : Nat) (s : State) : (recoverEmit i s).fecPt = s.fecPt := rfl
@[simp] theorem recoverEmit_fecSeq (i : Nat) (s : State) :
    (recoverEmit i s).fecSeq = s.fecSeq := rfl
@[simp] theorem recoverEmit_hacc (i : Nat) (s : State) : (recoverEmit i s).hacc = s.hacc := rfl
@[simp] theorem recoverEmit_fcnt (i : Nat) (s : State) : (recoverEmit i s).fcnt = s.fcnt := rfl
@[simp] theorem recoverEmit_pmax (i : Nat) (s : State) : (recoverEmit i s).pmax = s.pmax := rfl
@[simp] theorem recoverEmit_prot (i : Nat) (s : State) : (recoverEmit i s).prot = s.prot := rfl
@[simp] theorem recoverEmit_lastTs (i : Nat) (s : State) :
    (recoverEmit i s).lastTs = s.lastTs := rfl
@[simp] theorem recoverEmit_lastSsrc (i : Nat) (s : State) :
    (recoverEmit i s).lastSsrc = s.lastSsrc := rfl
@[simp] theorem recoverEmit_fecSsrc (i : Nat) (s : State) :
    (recoverEmit i s).fecSsrc = s.fecSsrc := rfl
@[simp] theorem recoverEmit_mask (i : Nat) (s : State) : (recoverEmit i s).mask = s.mask := rfl
@[simp] theorem recoverEmit_islong (i : Nat) (s : State) :
    (recoverEmit i s).islong = s.islong := rfl
@[simp] theorem recoverEmit_mw (i : Nat) (s : State) : (recoverEmit i s).mw = s.mw := rfl
@[simp] theorem recoverEmit_snbase (i : Nat) (s : State) :
    (recoverEmit i s).snbase = s.snbase := rfl
@[simp] theorem recoverEmit_snbValid (i : Nat) (s : State) :
    (recoverEmit i s).snbValid = s.snbValid := rfl
@[simp] theorem recoverEmit_off (i : Nat) (s : State) : (recoverEmit i s).off = s.off := rfl
@[simp] theorem recoverEmit_rtpB0 (i : Nat) (s : State) : (recoverEmit i s).rtpB0 = s.rtpB0 := rfl
@[simp] theorem recoverEmit_rtpB1 (i : Nat) (s : State) : (recoverEmit i s).rtpB1 = s.rtpB1 := rfl
@[simp] theorem recoverEmit_rtpSn (i : Nat) (s : State) : (recoverEmit i s).rtpSn = s.rtpSn := rfl
@[simp] theorem recoverEmit_rtpTs (i : Nat) (s : State) : (recoverEmit i s).rtpTs = s.rtpTs := rfl
@[simp] theorem recoverEmit_rtpSsrc (i : Nat) (s : State) :
    (recoverEmit i s).rtpSsrc = s.rtpSsrc := rfl
@[simp] theorem recoverEmit_rtpPlen (i : Nat) (s : State) :
    (recoverEmit i s).rtpPlen = s.rtpPlen := rfl
@[simp] theorem recoverEmit_err (i : Nat) (s : State) : (recoverEmit i s).err = s.err := rfl
@[simp] theorem recoverEmit_flagNone (i : Nat) (s : State) :
    (recoverEmit i s).flagNone = false := rfl
@[simp] theorem recoverEmit_flagInwin (i : Nat) (s : State) :
    (recoverEmit i s).flagInwin = s.flagInwin := rfl
@[simp] theorem recoverEmit_flagIsfec (i : Nat) (s : State) :
    (recoverEmit i s).flagIsfec = s.flagIsfec := rfl
@[simp] theorem recoverEmit_flagBit (i : Nat) (s : State) :
    (recoverEmit i s).flagBit = s.flagBit := rfl
@[simp] theorem recoverEmit_flagBuserr (i : Nat) (s : State) :
    (recoverEmit i s).flagBuserr = s.flagBuserr := rfl
@[simp] theorem recoverEmit_flagSticky (i : Nat) (s : State) :
    (recoverEmit i s).flagSticky = s.flagSticky := rfl
@[simp] theorem recoverEmit_res (i : Nat) (s : State) : (recoverEmit i s).res = 1 := rfl
@[simp] theorem recoverEmit_errcmd (i : Nat) (s : State) :
    (recoverEmit i s).errcmd = s.errcmd := rfl
@[simp] theorem recoverEmit_inLen (i : Nat) (s : State) : (recoverEmit i s).inLen = s.inLen := rfl
@[simp] theorem recoverEmit_outLen (i : Nat) (s : State) :
    (recoverEmit i s).outLen = BitVec.ofNat 16 (Config.hdrLen + recoveredLen s) := rfl
@[simp] theorem recoverEmit_mem (i : Nat) (s : State) :
    (recoverEmit i s).mem = memWriteBytes s.mem Config.outBase (recoveredPacket i s) := by rw [recoverEmit]
@[simp] theorem recoverEmit_host (i : Nat) (s : State) : (recoverEmit i s).host = s.host := rfl
@[simp] theorem recoverEmit_busData (i : Nat) (s : State) :
    (recoverEmit i s).busData = s.busData := rfl
@[simp] theorem recoverEmit_epoch (i : Nat) (s : State) : (recoverEmit i s).epoch = s.epoch := rfl

end Sys2Proof.Machine
end

