-- ==== Sys2Proof/Laws/Buffers.lean ====
section
/-! SUPPORT. What each unit writes to the buffers: the lengths of the written byte lists, and the byte at every address after each update. -/

namespace Sys2Proof.Machine

/-! ### Reading through an update that leaves the buffers -/

/-- A byte depends on the buffers and the draw only. -/
theorem byteAt_congr {s t : State} (hm : t.mem = s.mem) (he : t.epoch = s.epoch) (a : Nat) :
    byteAt t a = byteAt s a := by rw [byteAt, byteAt, hm, he]

/-! ### Which buffer an address lies in -/

theorem inPacc_iff (a : Nat) : inPacc a = true ↔ 0x3000 ≤ a ∧ a ≤ 0x35B3 := by
  have e1 : Config.paccBase = 0x3000 := rfl
  have e2 : Config.paccBytes = 1460 := rfl
  simp only [inPacc, Bool.and_eq_true, decide_eq_true_eq]
  omega

theorem inIn_iff (a : Nat) : inIn a = true ↔ 0x1000 ≤ a ∧ a ≤ 0x15BF := by
  have e1 : Config.inBase = 0x1000 := rfl
  have e2 : Config.inBytes = 1472 := rfl
  simp only [inIn, Bool.and_eq_true, decide_eq_true_eq]
  omega

theorem inOut_iff (a : Nat) : inOut a = true ↔ 0x2000 ≤ a ∧ a ≤ 0x25BF := by
  have e1 : Config.outBase = 0x2000 := rfl
  have e2 : Config.outBytes = 1472 := rfl
  simp only [inOut, Bool.and_eq_true, decide_eq_true_eq]
  omega

/-! ### Lengths of the written lists -/

@[simp] theorem inBytesFrom_length (s : State) (i n : Nat) : (inBytesFrom s i n).length = n := by
  simp [inBytesFrom]

@[simp] theorem paccBytesTo_length (s : State) (n : Nat) : (paccBytesTo s n).length = n := by
  simp [paccBytesTo]

@[simp] theorem paccFolded_length (l : Nat) (s : State) : (paccFolded l s).length = l := by
  simp [paccFolded]

theorem maskLen_le (long : Bool) : maskLen long ≤ 6 := by cases long <;> decide

@[simp] theorem maskWire_length_eq (m : Mask) (long : Bool) :
    (maskWire m long).length = maskLen long := by cases long <;> rfl

theorem padCount_lt (l0 : Nat) : padCount l0 < 4 := Nat.mod_lt _ (by decide)

theorem padBytes_length (style : Config.PadStyle) (l0 : Nat) :
    l0 + (padBytes style (padCount l0)).length = assembledLen style l0 := by
  have h := padCount_lt l0
  unfold padBytes assembledLen
  split
  · rfl
  · cases style with
    | align => simp; omega
    | single => simp

/-- The assembled packet is as long as FEC_ASM says (R95). -/
theorem fecPacket_length (style : Config.PadStyle) (loc : Config.PadFlagLoc) (s : State) :
    (fecPacket style loc s).length = fecPacketLen style s := by
  rw [fecPacketLen, ← padBytes_length]
  simp only [fecPacket, fecRtpHeader, fecHeader, toBE16, toBE32, List.length_append,
    List.length_cons, List.length_nil, maskWire_length_eq, paccBytesTo_length]
  generalize (padBytes style _).length = p
  unfold unpaddedLen
  omega

/-- Under ALIGN the packet's length is the next multiple of 4 (R68). -/
theorem fecPacketLen_align (s : State) :
    fecPacketLen .align s = unpaddedLen s.islong s.pmax.toNat
      + padCount (unpaddedLen s.islong s.pmax.toNat) := by
  unfold fecPacketLen assembledLen
  split
  · next h => rw [h]; rfl
  · rfl

@[simp] theorem recoveredPacket_length (i : Nat) (s : State) :
    (recoveredPacket i s).length = 12 + recoveredLen s := by
  simp only [recoveredPacket, toBE16, toBE32, List.length_append,
    List.length_cons, List.length_nil, paccBytesTo_length]

/-! ### The bytes of the written lists -/

theorem inBytesFrom_getD (s : State) (i n j : Nat) (h : j < n) :
    (inBytesFrom s i n).getD j 0 = inByte s (i + j) := by
  simp [inBytesFrom, h]

theorem paccBytesTo_getD (s : State) (n j : Nat) (h : j < n) :
    (paccBytesTo s n).getD j 0 = paccByte s j := by
  simp [paccBytesTo, h]

theorem paccFolded_getD (l : Nat) (s : State) (j : Nat) (h : j < l) :
    (paccFolded l s).getD j 0 = paccByte s j ^^^ inByte s (12 + j) := by
  simp [paccFolded, h, Config.hdrLen]

/-! ### The byte at an address after each update -/

/-- ACC_CLR zeroes PACC and leaves every other byte (R73). -/
theorem byteAt_accCleared (s : State) (a : Nat) :
    byteAt (accCleared s) a = if 0x3000 ≤ a ∧ a ≤ 0x35B3 then 0 else byteAt s a := by
  rw [byteAt, accCleared_mem, accCleared_epoch, memRead_memClearPacc]
  simp only [inPacc_iff]; rfl

/-- ACC_FOLD_PAY XORs the payload into PACC from its first byte and leaves every other byte (R75). -/
theorem byteAt_foldPay (len : Nat) (s : State) (a : Nat) :
    byteAt (foldPay len s) a =
      if 0x3000 ≤ a ∧ a < 0x3000 + (len - 12) then
        byteAt s a ^^^ inByte s (12 + (a - 0x3000))
      else byteAt s a := by
  have e1 : Config.paccBase = 0x3000 := rfl
  have e2 : Config.hdrLen = 12 := rfl
  rw [byteAt, foldPay_mem, foldPay_epoch, memRead_memWriteBytes, paccFolded_length, e1, e2]
  split
  · next h =>
    rw [paccFolded_getD _ _ _ (by omega), paccByte, e1, show 0x3000 + (a - 0x3000) = a by omega]
  · rfl

/-- FEC_ASM writes the packet to OUT from its first byte and leaves every other byte (R95). -/
theorem byteAt_fecEmit (style : Config.PadStyle) (loc : Config.PadFlagLoc) (s : State) (a : Nat) :
    byteAt (fecEmit style loc s) a =
      if 0x2000 ≤ a ∧ a < 0x2000 + fecPacketLen style s then
        (fecPacket style loc s).getD (a - 0x2000) 0
      else byteAt s a := by
  have e1 : Config.outBase = 0x2000 := rfl
  rw [byteAt, fecEmit_mem, fecEmit_epoch, memRead_memWriteBytes, fecPacket_length, e1]
  rfl

/-- FEC_PARSE writes the packet's payload to PACC, zeroes the rest of PACC and leaves every other byte (R97). -/
theorem byteAt_fecLoad (s : State) (a : Nat) :
    byteAt (fecLoad s) a =
      if 0x3000 ≤ a ∧ a < 0x3000 + fecProtLen s then
        inByte s (24 + maskLen (fecLongFlag s) + (a - 0x3000))
      else if 0x3000 ≤ a ∧ a ≤ 0x35B3 then 0 else byteAt s a := by
  have e1 : Config.paccBase = 0x3000 := rfl
  rw [byteAt, fecLoad_mem, fecLoad_epoch, memRead_memWriteBytes, inBytesFrom_length, e1]
  split
  · next h => rw [inBytesFrom_getD _ _ _ _ (by omega)]
  · rw [memRead_memClearPacc]
    simp only [inPacc_iff]; rfl

/-- RECOVER writes the packet to OUT from its first byte and leaves every other byte (R98). -/
theorem byteAt_recoverEmit (i : Nat) (s : State) (a : Nat) :
    byteAt (recoverEmit i s) a =
      if 0x2000 ≤ a ∧ a < 0x2000 + (12 + recoveredLen s) then
        (recoveredPacket i s).getD (a - 0x2000) 0
      else byteAt s a := by
  have e1 : Config.outBase = 0x2000 := rfl
  rw [byteAt, recoverEmit_mem, recoverEmit_epoch, memRead_memWriteBytes, recoveredPacket_length, e1]
  rfl

end Sys2Proof.Machine
end

