-- ==== Sys2Proof/Laws/Exec.lean ====
section
/-! SUPPORT. What a command can do: the operand checks, the checks of each unit, and `exec` as the checks and updates of a command put to an end by `complete`. -/

namespace Sys2Proof.Machine

/-! ### Ending a command -/

/-- A command ends in the finished state of its updates or in the error record on the state before it. -/
theorem complete_eq_next {w : Word} {s t : State} {r : Except ErrCode State} :
    complete w s r = .next t ↔
      (∃ u, r = .ok u ∧ t = finish u) ∨ (∃ c, r = .error c ∧ t = raiseErr w c s) := by
  cases r with
  | ok u => simp [complete, eq_comm]
  | error c => simp [complete, eq_comm]

@[simp] theorem complete_ok (w : Word) (s u : State) : complete w s (.ok u) = .next (finish u) := rfl

@[simp] theorem complete_error (w : Word) (s : State) (c : ErrCode) :
    complete w s (.error c) = .next (raiseErr w c s) := rfl

/-- The number of a code is 1 to 7, and 7 is OUT_OF_MEMORY only. -/
theorem ErrCode.number_ne_zero (c : ErrCode) : c.number ≠ 0 := by cases c <;> decide

/-! ### The checks -/

theorem lenchk_eq_ok {lim : Limit} {s : State} {n : Nat} :
    lenchk lim s = .ok n ↔
      12 ≤ s.inLen.toNat ∧ s.inLen.toNat ≤ limitOf lim ∧ n = s.inLen.toNat := by
  have e : Config.minLen = 12 := rfl
  unfold lenchk
  split
  · simp only [reduceCtorEq, false_iff]; omega
  · simp only [Except.ok.injEq]; omega

theorem lenchk_eq_error {lim : Limit} {s : State} {c : ErrCode} :
    lenchk lim s = .error c ↔
      (s.inLen.toNat < 12 ∨ limitOf lim < s.inLen.toNat) ∧ c = .invalidLen := by
  have e : Config.minLen = 12 := rfl
  unfold lenchk
  split
  · next h => rw [e] at h; simp only [Except.error.injEq, h, true_and, eq_comm]
  · next h => rw [e] at h; simp only [reduceCtorEq, h, false_and]

theorem limitOf_le (lim : Limit) : limitOf lim ≤ 1472 := by cases lim <;> decide

theorem ofsCheck_eq_ok {o : Half} {k : Nat} : ofsCheck o = .ok k ↔ o.toNat < 48 ∧ k = o.toNat := by
  have e : Config.maskBits = 48 := rfl
  unfold ofsCheck
  split
  · simp only [reduceCtorEq, false_iff]; omega
  · simp only [Except.ok.injEq]; omega

theorem ofsCheck_eq_error {o : Half} {c : ErrCode} :
    ofsCheck o = .error c ↔ 48 ≤ o.toNat ∧ c = .offsetRange := by
  have e : Config.maskBits = 48 := rfl
  unfold ofsCheck
  split
  · next h => rw [e] at h; simp only [Except.error.injEq, h, true_and, eq_comm]
  · next h => rw [e] at h; simp only [reduceCtorEq, h, false_and]

theorem checkedFold_eq_ok {lim : Limit} {f : Nat → State → State} {s u : State} :
    checkedFold lim f s = .ok u ↔
      12 ≤ s.inLen.toNat ∧ s.inLen.toNat ≤ limitOf lim ∧ u = f s.inLen.toNat s := by
  unfold checkedFold
  split
  · next n h =>
    obtain ⟨h1, h2, rfl⟩ := lenchk_eq_ok.1 h
    simp [h1, h2, eq_comm]
  · next c h =>
    obtain ⟨h1, rfl⟩ := lenchk_eq_error.1 h
    simp only [reduceCtorEq, false_iff]
    omega

theorem checkedFold_eq_error {lim : Limit} {f : Nat → State → State} {s : State} {c : ErrCode} :
    checkedFold lim f s = .error c ↔
      (s.inLen.toNat < 12 ∨ limitOf lim < s.inLen.toNat) ∧ c = .invalidLen := by
  unfold checkedFold
  split
  · next n h =>
    obtain ⟨h1, h2, rfl⟩ := lenchk_eq_ok.1 h
    simp only [reduceCtorEq, false_iff]
    omega
  · next d h =>
    obtain ⟨h1, rfl⟩ := lenchk_eq_error.1 h
    simp [h1, eq_comm]

theorem maskSet_eq_ok {o : Half} {s u : State} :
    maskSet o s = .ok u ↔ o.toNat < 48 ∧ u = { s with mask := withBitSet s.mask o.toNat } := by
  unfold maskSet
  split
  · next k h => obtain ⟨h1, rfl⟩ := ofsCheck_eq_ok.1 h; simp [h1, eq_comm]
  · next c h => obtain ⟨h1, rfl⟩ := ofsCheck_eq_error.1 h; simp [h1]

theorem maskSet_eq_error {o : Half} {s : State} {c : ErrCode} :
    maskSet o s = .error c ↔ 48 ≤ o.toNat ∧ c = .offsetRange := by
  unfold maskSet
  split
  · next k h => obtain ⟨h1, rfl⟩ := ofsCheck_eq_ok.1 h; simp; omega
  · next c h => obtain ⟨h1, rfl⟩ := ofsCheck_eq_error.1 h; simp [h1, eq_comm]

theorem maskClrb_eq_ok {o : Half} {s u : State} :
    maskClrb o s = .ok u ↔ o.toNat < 48 ∧ u = { s with mask := withBitClear s.mask o.toNat } := by
  unfold maskClrb
  split
  · next k h => obtain ⟨h1, rfl⟩ := ofsCheck_eq_ok.1 h; simp [h1, eq_comm]
  · next c h => obtain ⟨h1, rfl⟩ := ofsCheck_eq_error.1 h; simp [h1]

theorem maskClrb_eq_error {o : Half} {s : State} {c : ErrCode} :
    maskClrb o s = .error c ↔ 48 ≤ o.toNat ∧ c = .offsetRange := by
  unfold maskClrb
  split
  · next k h => obtain ⟨h1, rfl⟩ := ofsCheck_eq_ok.1 h; simp; omega
  · next c h => obtain ⟨h1, rfl⟩ := ofsCheck_eq_error.1 h; simp [h1, eq_comm]

theorem maskTest_eq_ok {o : Half} {s u : State} :
    maskTest o s = .ok u ↔ o.toNat < 48 ∧
      u = { s with
        flagBit := s.mask.getLsbD o.toNat, res := flagWord (s.mask.getLsbD o.toNat) } := by
  unfold maskTest
  split
  · next k h => obtain ⟨h1, rfl⟩ := ofsCheck_eq_ok.1 h; simp [h1, eq_comm]
  · next c h => obtain ⟨h1, rfl⟩ := ofsCheck_eq_error.1 h; simp [h1]

theorem maskTest_eq_error {o : Half} {s : State} {c : ErrCode} :
    maskTest o s = .error c ↔ 48 ≤ o.toNat ∧ c = .offsetRange := by
  unfold maskTest
  split
  · next k h => obtain ⟨h1, rfl⟩ := ofsCheck_eq_ok.1 h; simp; omega
  · next c h => obtain ⟨h1, rfl⟩ := ofsCheck_eq_error.1 h; simp [h1, eq_comm]

/-- An offset that fits its field is the operand's value (R53). -/
theorem ofsImm_toNat : ∀ a : Byte, a.toNat < 64 → (ofsImm a).toNat = a.toNat := by decide

/-- A group size that fits its field is the operand's value (R53). -/
theorem gsImm_eq : ∀ a : Byte, a.toNat < 128 → gsImm a = a.toNat := by decide

/-- A payload type that fits its field is the operand's value (R53). -/
theorem ptOperand_toNat : ∀ a : Byte, a.toNat < 128 → (ptOperand a).toNat = a.toNat := by decide

/-! ### FEC_ASM, FEC_PARSE and RECOVER -/

/-- FEC_ASM makes its updates exactly when its three checks pass (R95). -/
theorem fecAssemble_eq_ok {style : Config.PadStyle} {loc : Config.PadFlagLoc} {s u : State} :
    fecAssemble style loc s = .ok u ↔
      s.fcnt ≠ 0 ∧ maskDoesNotFit s = false ∧ fecPacketLen style s ≤ 1472 ∧
        u = fecEmit style loc s := by
  have e : Config.outBytes = 1472 := rfl
  unfold fecAssemble
  split
  · next h => simp only [reduceCtorEq, h, ne_eq, not_true, false_and]
  · next h =>
    split
    · next h2 => simp only [reduceCtorEq, h2, Bool.true_eq_false, false_and, and_false]
    · next h2 =>
      have h2' : maskDoesNotFit s = false := by simpa using h2
      split
      · next h3 => simp only [reduceCtorEq, false_iff]; omega
      · next h3 =>
        have h3' : fecPacketLen style s ≤ 1472 := by omega
        simp only [Except.ok.injEq, ne_eq, h, not_false_eq_true, h2', h3', true_and, eq_comm]

/-- The code FEC_ASM fails with, in the order of its checks (R108). -/
theorem fecAssemble_eq_error {style : Config.PadStyle} {loc : Config.PadFlagLoc} {s : State}
    {c : ErrCode} :
    fecAssemble style loc s = .error c ↔
      (s.fcnt = 0 ∧ c = .zeroGroup) ∨
      (s.fcnt ≠ 0 ∧ maskDoesNotFit s = true ∧ c = .offsetRange) ∨
      (s.fcnt ≠ 0 ∧ maskDoesNotFit s = false ∧ 1472 < fecPacketLen style s ∧ c = .invalidLen) := by
  have e : Config.outBytes = 1472 := rfl
  unfold fecAssemble
  split
  · next h =>
    simp only [Except.error.injEq, h, ne_eq, not_true, false_and, or_false, true_and, eq_comm]
  · next h =>
    split
    · next h2 =>
      simp only [Except.error.injEq, h, h2, ne_eq, not_false_eq_true, false_and, true_and, false_or,
        Bool.true_eq_false, or_false]
      exact eq_comm
    · next h2 =>
      have h2' : maskDoesNotFit s = false := by simpa using h2
      split
      · next h3 =>
        rw [e] at h3
        simp only [Except.error.injEq, h, h2', h3, ne_eq, not_false_eq_true, false_and, true_and,
          false_or, Bool.false_eq_true, eq_comm]
      · next h3 =>
        rw [e] at h3
        simp only [reduceCtorEq, h, h2', h3, ne_eq, false_and, and_false, or_false,
          Bool.false_eq_true]

/-- FEC_PARSE makes its updates exactly when the packet is long enough for its header, its mask and its protection
length (R97). -/
theorem fecDisassemble_eq_ok {s u : State} :
    fecDisassemble s = .ok u ↔
      26 ≤ s.inLen.toNat ∧ s.inLen.toNat ≤ 1472 ∧
        24 + maskLen (fecLongFlag s) + fecProtLen s ≤ s.inLen.toNat ∧ u = fecLoad s := by
  have e1 : Config.minLen = 12 := rfl
  have e2 : Config.maxDecLen = 1472 := rfl
  unfold fecDisassemble
  split_ifs
  all_goals first
    | (simp only [false_iff]; omega)
    | (simp only [Except.ok.injEq]
       constructor
       · rintro rfl; exact ⟨by omega, by omega, by omega, rfl⟩
       · rintro ⟨-, -, -, rfl⟩; rfl)

/-- The code FEC_PARSE fails with (R97, R108). -/
theorem fecDisassemble_eq_error {s : State} {c : ErrCode} :
    fecDisassemble s = .error c ↔
      ((s.inLen.toNat < 12 ∨ 1472 < s.inLen.toNat) ∧ c = .invalidLen) ∨
      (12 ≤ s.inLen.toNat ∧ s.inLen.toNat ≤ 1472 ∧
        (s.inLen.toNat < 26 ∨ s.inLen.toNat < 24 + maskLen (fecLongFlag s) ∨
          s.inLen.toNat < 24 + maskLen (fecLongFlag s) + fecProtLen s) ∧ c = .malformedFec) := by
  have e1 : Config.minLen = 12 := rfl
  have e2 : Config.maxDecLen = 1472 := rfl
  unfold fecDisassemble
  split_ifs
  · simp only [Except.error.injEq]
    constructor
    · rintro rfl; exact .inl ⟨by omega, rfl⟩
    · rintro (⟨-, rfl⟩ | h)
      · rfl
      · omega
  all_goals first
    | (simp only [Except.error.injEq]
       constructor
       · rintro rfl; exact .inr ⟨by omega, by omega, by omega, rfl⟩
       · rintro (h | ⟨-, -, -, rfl⟩)
         · omega
         · rfl)
    | (simp only [false_iff]; omega)

/-- RECOVER succeeds in two ways: nothing is missing, or one packet is and its length is at most PROT (R98). -/
theorem recoverMissing_eq_ok {s u : State} :
    recoverMissing s = .ok u ↔
      (s.mask = 0 ∧ u = { s with flagNone := true, res := 0 }) ∨
      (popcount s.mask ≤ 1 ∧ ∃ i, firstSet s.mask = some i ∧ recoveredLen s ≤ s.prot.toNat ∧
        u = recoverEmit i s) := by
  unfold recoverMissing
  split
  · next h =>
    simp only [reduceCtorEq, false_iff]
    rintro (⟨h0, -⟩ | ⟨h1, -⟩)
    · rw [(popcount_eq_zero _).2 h0] at h; omega
    · omega
  · next h =>
    split
    · next h0 =>
      have hz := (firstSet_eq_none_iff_zero _).1 h0
      simp only [Except.ok.injEq, h0, reduceCtorEq, false_and, exists_false, and_false, or_false]
      constructor
      · rintro rfl; exact ⟨hz, rfl⟩
      · rintro ⟨-, rfl⟩; rfl
    · next i hi =>
      have hz : s.mask ≠ 0 := fun hz => by
        rw [(firstSet_eq_none_iff_zero _).2 hz] at hi; cases hi
      simp only [hz, false_and, false_or, hi, Option.some.injEq, exists_eq_left']
      split
      · next hp => simp only [reduceCtorEq, false_iff]; omega
      · next hp =>
        simp only [Except.ok.injEq]
        constructor
        · rintro rfl; exact ⟨by omega, by omega, rfl⟩
        · rintro ⟨-, -, rfl⟩; rfl

/-- The code RECOVER fails with (R98, R108). -/
theorem recoverMissing_eq_error {s : State} {c : ErrCode} :
    recoverMissing s = .error c ↔
      (1 < popcount s.mask ∧ c = .unrecoverable) ∨
      (popcount s.mask ≤ 1 ∧ s.mask ≠ 0 ∧ s.prot.toNat < recoveredLen s ∧ c = .malformedFec) := by
  unfold recoverMissing
  split
  · next h =>
    simp only [Except.error.injEq]
    constructor
    · rintro rfl; exact .inl ⟨h, rfl⟩
    · rintro (⟨-, rfl⟩ | ⟨h', -⟩)
      · rfl
      · omega
  · next h =>
    split
    · next h0 =>
      have hz := (firstSet_eq_none_iff_zero _).1 h0
      simp only [reduceCtorEq, false_iff]
      rintro (⟨h', -⟩ | ⟨-, h', -⟩)
      · exact h h'
      · exact h' hz
    · next i hi =>
      have hz : s.mask ≠ 0 := fun hz => by
        rw [(firstSet_eq_none_iff_zero _).2 hz] at hi; cases hi
      split
      · next hp =>
        simp only [Except.error.injEq]
        constructor
        · rintro rfl; exact .inr ⟨by omega, hz, hp, rfl⟩
        · rintro (⟨h', -⟩ | ⟨-, -, -, rfl⟩)
          · exact absurd h' h
          · rfl
      · next hp =>
        simp only [reduceCtorEq, false_iff]
        rintro (⟨h', -⟩ | ⟨-, -, h', -⟩)
        · exact h h'
        · exact hp h'

/-! ### A command as its checks and updates -/

/-- The checks and updates of a command, before `finish()` or the error record. -/
def body (i : Instr) (s : State) : Except ErrCode State :=
  match i with
  | .nop => .ok s
  | .ctxNew pt => .ok { s with fecPt := ptOperand pt, fecSeq := Config.seqInit }
  | .statClr => .ok (clearErrorRecord s)
  | .accClr => .ok (accCleared s)
  | .accFoldHdr lim => checkedFold lim foldHdr s
  | .accFoldPay lim => checkedFold lim foldPay s
  | .accFold lim => checkedFold lim (fun len t => foldPay len (foldHdr len t)) s
  | .maskClr => .ok { s with mask := 0 }
  | .maskSetImm ofs => maskSet (ofsImm ofs) s
  | .maskSetOff => maskSet s.off s
  | .maskClrbImm ofs => maskClrb (ofsImm ofs) s
  | .maskClrbOff => maskClrb s.off s
  | .maskTestImm ofs => maskTest (ofsImm ofs) s
  | .maskTestOff => maskTest s.off s
  | .maskCnt => .ok { s with res := BitVec.ofNat 32 (popcount s.mask) }
  | .maskFirst =>
    .ok (match firstSet s.mask with
      | none => { s with res := 0, flagNone := true }
      | some i => { s with res := BitVec.ofNat 32 i, flagNone := false })
  | .maskIslongImm gs mo => .ok (setIslong (isLongFor (gsImm gs) mo.toNat) s)
  | .maskIslongAcc => .ok (setIslong (isLongFor s.fcnt.toNat (highestSet s.mask)) s)
  | .maskEnc =>
    if maskDoesNotFit s then .error .offsetRange
    else .ok { s with mw := mwOf (maskWire s.mask s.islong) }
  | .maskDec =>
    .ok { s with
      mask := maskRead s.mw[0] s.mw[1] s.mw[2] s.mw[3] s.mw[4] s.mw[5] s.islong }
  | .snOffImm sn => .ok (snOff sn s)
  | .snOffRtp => .ok (snOff s.rtpSn s)
  | .snAddImm k => .ok (snAdd k s)
  | .snAddOff => .ok (snAdd s.off s)
  | .snSetbaseImm sn => .ok (snSetbase sn s)
  | .snSetbaseRtp => .ok (snSetbase s.rtpSn s)
  | .rtpParse lim => checkedFold lim rtpFields s
  | .fecAsm => fecAssemble Config.padStyle Config.padFlagLoc s
  | .fecParse => fecDisassemble s
  | .recover => recoverMissing s

/-- Every command is its body put to an end. -/
theorem exec_eq_complete (i : Instr) (s : State) :
    exec i s = complete (encode i) s (body i s) := by
  cases i <;> rfl

/-- What a command can do: it finishes its body's updates, or it leaves the error record on the state before
it. -/
theorem exec_cases {i : Instr} {s t : State} (h : exec i s = .next t) :
    (∃ u, body i s = .ok u ∧ t = finish u) ∨
      (∃ c, body i s = .error c ∧ t = raiseErr (encode i) c s) :=
  complete_eq_next.1 (exec_eq_complete i s ▸ h)

/-- Every command answers a next state. -/
theorem exec_next (i : Instr) (s : State) : ∃ t, exec i s = .next t := by
  rw [exec_eq_complete]
  cases body i s with
  | ok u => exact ⟨_, rfl⟩
  | error c => exact ⟨_, rfl⟩

theorem exec_of_body_ok {i : Instr} {s u : State} (h : body i s = .ok u) :
    exec i s = .next (finish u) := by
  rw [exec_eq_complete, h]; rfl

theorem exec_of_body_error {i : Instr} {s : State} {c : ErrCode} (h : body i s = .error c) :
    exec i s = .next (raiseErr (encode i) c s) := by
  rw [exec_eq_complete, h]; rfl

end Sys2Proof.Machine
end

