-- ==== Sys2Proof/Laws/ConditionFlags.lean ====
section
/-! SUPPORT. No command reads a condition flag (10_state.md R28): the checks and updates of a command on a state whose condition flags are replaced. -/

namespace Sys2Proof.Machine

/-- The state with the four condition flags replaced. -/
def withFlags (n w f b : Bool) (s : State) : State :=
  { s with flagNone := n, flagInwin := w, flagIsfec := f, flagBit := b }

/-- A successful command's state with the condition flags that R27 does not list for it replaced. -/
def withOtherFlags (i : Instr) (n w f b : Bool) (u : State) : State :=
  withFlags
    (match i with | .maskFirst | .recover => u.flagNone | _ => n)
    (match i with | .snOffImm _ | .snOffRtp => u.flagInwin | _ => w)
    (match i with | .rtpParse _ => u.flagIsfec | _ => f)
    (match i with | .maskTestImm _ | .maskTestOff => u.flagBit | _ => b)
    u

theorem checkedFold_withFlags {lim : Limit} {g : Nat → State → State} {k : State → State} {s : State}
    {n w f b : Bool} (h : ∀ len, g len (withFlags n w f b s) = k (g len s)) :
    checkedFold lim g (withFlags n w f b s) = (checkedFold lim g s).map k := by
  unfold checkedFold
  rw [show lenchk lim (withFlags n w f b s) = lenchk lim s from rfl]
  cases lenchk lim s with
  | ok len => exact congrArg Except.ok (h len)
  | error c => rfl

theorem fecEmit_withFlags (style : Config.PadStyle) (loc : Config.PadFlagLoc) (n w f b : Bool)
    (s : State) :
    fecEmit style loc (withFlags n w f b s) = withFlags n w f b (fecEmit style loc s) := by
  have e : fecPacket style loc (withFlags n w f b s) = fecPacket style loc s := rfl
  have e' : fecPacketLen style (withFlags n w f b s) = fecPacketLen style s := rfl
  have e1 : (withFlags n w f b s).mem = s.mem := rfl
  unfold fecEmit
  rw [e, e', e1]
  generalize memWriteBytes _ _ _ = m
  generalize fecPacketLen style s = l
  rfl

/-- RECOVER writes NONE whatever it was (R27, R98). -/
theorem recoverEmit_withFlags (i : Nat) (n w f b : Bool) (s : State) :
    recoverEmit i (withFlags n w f b s) = withFlags false w f b (recoverEmit i s) := by
  have e : recoveredPacket i (withFlags n w f b s) = recoveredPacket i s := rfl
  have e' : recoveredLen (withFlags n w f b s) = recoveredLen s := rfl
  have e1 : (withFlags n w f b s).mem = s.mem := rfl
  unfold recoverEmit
  rw [e, e', e1]
  generalize memWriteBytes _ _ _ = m
  generalize recoveredLen s = l
  rfl

/-- A command's checks and updates do not depend on the condition flags: from a state with other flags it fails with
the same code, or makes the same updates, the flags it writes among them (R28). -/
theorem body_withFlags (i : Instr) (s : State) (n w f b : Bool) :
    body i (withFlags n w f b s) = (body i s).map (withOtherFlags i n w f b) := by
  cases i with
  | accFoldHdr lim => exact checkedFold_withFlags fun _ => rfl
  | accFoldPay lim => exact checkedFold_withFlags fun _ => rfl
  | accFold lim =>
    exact checkedFold_withFlags (g := fun len t => foldPay len (foldHdr len t)) fun _ => rfl
  | rtpParse lim => exact checkedFold_withFlags fun _ => rfl
  | maskSetImm ofs => simp only [body, maskSet]; cases ofsCheck (ofsImm ofs) <;> rfl
  | maskClrbImm ofs => simp only [body, maskClrb]; cases ofsCheck (ofsImm ofs) <;> rfl
  | maskTestImm ofs => simp only [body, maskTest]; cases ofsCheck (ofsImm ofs) <;> rfl
  | maskSetOff => simp only [body, maskSet, withFlags]; cases ofsCheck s.off <;> rfl
  | maskClrbOff => simp only [body, maskClrb, withFlags]; cases ofsCheck s.off <;> rfl
  | maskTestOff => simp only [body, maskTest, withFlags]; cases ofsCheck s.off <;> rfl
  | maskFirst => simp only [body, withFlags]; cases firstSet s.mask <;> rfl
  | maskEnc =>
    simp only [body]
    rw [show maskDoesNotFit (withFlags n w f b s) = maskDoesNotFit s from rfl]
    cases maskDoesNotFit s <;> rfl
  | fecAsm =>
    simp only [body, fecAssemble]
    rw [show (withFlags n w f b s).fcnt = s.fcnt from rfl,
      show maskDoesNotFit (withFlags n w f b s) = maskDoesNotFit s from rfl,
      show fecPacketLen Config.padStyle (withFlags n w f b s) = fecPacketLen Config.padStyle s from rfl,
      fecEmit_withFlags]
    generalize fecEmit _ _ s = u
    split_ifs <;> rfl
  | fecParse =>
    simp only [body, fecDisassemble]
    rw [show (withFlags n w f b s).inLen = s.inLen from rfl,
      show fecLongFlag (withFlags n w f b s) = fecLongFlag s from rfl,
      show fecProtLen (withFlags n w f b s) = fecProtLen s from rfl]
    split_ifs <;> rfl
  | recover =>
    simp only [body, recoverMissing]
    rw [show (withFlags n w f b s).mask = s.mask from rfl,
      show (withFlags n w f b s).prot = s.prot from rfl,
      show recoveredLen (withFlags n w f b s) = recoveredLen s from rfl]
    cases firstSet s.mask with
    | none => split_ifs <;> rfl
    | some k =>
      have e : (recoverEmit k s).flagNone = false := rfl
      simp only [recoverEmit_withFlags]
      generalize recoverEmit k s = u at e ⊢
      split_ifs
      · rfl
      · rfl
      · exact congrArg Except.ok (e ▸ rfl)
  | _ => rfl

end Sys2Proof.Machine
end

