-- ==== Sys2Proof/Laws/Encoding.lean ====
section
/-! SUPPORT. Laws of a command word's fields and of the decoder's format checks. -/

namespace Sys2Proof

@[simp] theorem opField_mkWord (op a : Byte) (b : Half) : opField (mkWord op a b) = op := by
  apply BitVec.eq_of_getLsbD_eq
  intro i hi
  simp only [opField, mkWord, BitVec.getLsbD_extractLsb', BitVec.getLsbD_append]
  simp [hi, show ¬ 24 + i < 16 by omega, show ¬ 24 + i - 16 < 8 by omega,
    show 24 + i - 16 - 8 = i by omega]

@[simp] theorem aField_mkWord (op a : Byte) (b : Half) : aField (mkWord op a b) = a := by
  apply BitVec.eq_of_getLsbD_eq
  intro i hi
  simp only [aField, mkWord, BitVec.getLsbD_extractLsb', BitVec.getLsbD_append]
  simp [hi, show ¬ 16 + i < 16 by omega]

@[simp] theorem bField_mkWord (op a : Byte) (b : Half) : bField (mkWord op a b) = b := by
  apply BitVec.eq_of_getLsbD_eq
  intro i hi
  simp only [bField, mkWord, BitVec.getLsbD_extractLsb', BitVec.getLsbD_append]
  simp [hi]

/-- A word is its three fields (R51). -/
theorem mkWord_fields (w : Word) : mkWord (opField w) (aField w) (bField w) = w := by
  apply BitVec.eq_of_getLsbD_eq
  intro i hi
  simp only [mkWord, opField, aField, bField, BitVec.getLsbD_append, BitVec.getLsbD_extractLsb']
  by_cases h0 : i < 16
  · simp [h0]
  · by_cases h1 : i < 24
    · simp [h0, show i - 16 < 8 by omega, show 16 + (i - 16) = i by omega]
    · simp [h0, show ¬ i - 16 < 8 by omega, show i - 16 - 8 < 8 by omega,
        show 24 + (i - 16 - 8) = i by omega]

/-- The value of a word from its three fields (R51). -/
theorem mkWord_toNat (op a : Byte) (b : Half) :
    (mkWord op a b).toNat = 16777216 * op.toNat + 65536 * a.toNat + b.toNat := by
  rw [mkWord, BitVec.toNat_append, BitVec.toNat_append, ← Nat.shiftLeft_add_eq_or_of_lt a.isLt,
    ← Nat.shiftLeft_add_eq_or_of_lt b.isLt, Nat.shiftLeft_eq, Nat.shiftLeft_eq]
  ring

/-- Masking a word masks its fields. -/
theorem mkWord_and (op a op' a' : Byte) (b b' : Half) :
    mkWord op a b &&& mkWord op' a' b' = mkWord (op &&& op') (a &&& a') (b &&& b') := by
  apply BitVec.eq_of_getLsbD_eq
  intro i hi
  simp only [mkWord, BitVec.getLsbD_append, BitVec.getLsbD_and]
  by_cases h0 : i < 16
  · simp [h0]
  · by_cases h1 : i - 16 < 8
    · simp [h0, h1]
    · simp [h0, h1]

/-- Two words are equal exactly when their fields are. -/
theorem mkWord_inj {op a op' a' : Byte} {b b' : Half} :
    mkWord op a b = mkWord op' a' b' ↔ op = op' ∧ a = a' ∧ b = b' := by
  constructor
  · intro h
    exact ⟨by simpa using congrArg opField h, by simpa using congrArg aField h,
      by simpa using congrArg bField h⟩
  · rintro ⟨rfl, rfl, rfl⟩
    rfl

/-! ### What each format accepts (R52) -/

theorem decodeZ_eq_ok {a : Byte} {b : Half} {i j : Instr} :
    decodeZ a b i = .ok j ↔ a = 0 ∧ b = 0 ∧ i = j := by
  unfold decodeZ
  split
  · next h => simp [h]
  · next h => simp only [reduceCtorEq, false_iff]; tauto

theorem limField_of_bit : ∀ a : Byte, a &&& 0xFE = 0 →
    limField (if a.getLsbD 0 then .enc else .dec) = a := by decide

theorem decodeL_eq_ok {a : Byte} {b : Half} {f : Limit → Instr} {j : Instr} :
    decodeL a b f = .ok j ↔ b = 0 ∧ ∃ lim, a = limField lim ∧ j = f lim := by
  unfold decodeL
  constructor
  · intro h
    split at h
    · next hc =>
      refine ⟨hc.2, _, (limField_of_bit a hc.1).symm, ?_⟩
      injection h with h
      exact h.symm
    · cases h
  · rintro ⟨rfl, lim, rfl, rfl⟩
    cases lim <;> rfl

theorem top_clear_iff : ∀ a : Byte, a &&& 0x80 = 0 ↔ a.toNat < 128 := by decide

theorem top_bit_false_iff : ∀ a : Byte, a.getLsbD 7 = false ↔ a.toNat < 128 := by decide

theorem offset_bits_iff : ∀ a : Byte, a.getLsbD 7 = false ∧ a &&& 0x40 = 0 ↔ a.toNat < 64 := by
  decide

theorem decodeP_eq_ok {a : Byte} {b : Half} {f : Byte → Instr} {j : Instr} :
    decodeP a b f = .ok j ↔ b = 0 ∧ a.toNat < 128 ∧ j = f a := by
  unfold decodeP
  constructor
  · intro h
    split at h
    · next hc => injection h with h; exact ⟨hc.2, (top_clear_iff a).1 hc.1, h.symm⟩
    · cases h
  · rintro ⟨rfl, ha, rfl⟩
    rw [if_pos ⟨(top_clear_iff a).2 ha, rfl⟩]

theorem decodeO_eq_ok {a : Byte} {b : Half} {imm : Byte → Instr} {reg j : Instr} :
    decodeO a b imm reg = .ok j ↔
      b = 0 ∧ ((a = 0x80 ∧ j = reg) ∨ (a.toNat < 64 ∧ j = imm a)) := by
  unfold decodeO
  constructor
  · intro h
    split at h
    · split at h
      · next hc => injection h with h; exact ⟨hc.2, .inl ⟨hc.1, h.symm⟩⟩
      · cases h
    · next h7 =>
      split at h
      · next hc =>
        injection h with h
        exact ⟨hc.2, .inr ⟨(offset_bits_iff a).1 ⟨by simpa using h7, hc.1⟩, h.symm⟩⟩
      · cases h
  · rintro ⟨rfl, ⟨rfl, rfl⟩ | ⟨ha, rfl⟩⟩
    · rfl
    · obtain ⟨h7, h6⟩ := (offset_bits_iff a).2 ha
      rw [if_neg (by rw [h7]; exact Bool.false_ne_true), if_pos ⟨h6, rfl⟩]

theorem decodeG_eq_ok {a : Byte} {b : Half} {imm : Byte → Half → Instr} {reg j : Instr} :
    decodeG a b imm reg = .ok j ↔
      (a = 0x80 ∧ b = 0 ∧ j = reg) ∨ (a.toNat < 128 ∧ j = imm a b) := by
  unfold decodeG
  constructor
  · intro h
    split at h
    · split at h
      · next hc => injection h with h; exact .inl ⟨hc.1, hc.2, h.symm⟩
      · cases h
    · next h7 =>
      injection h with h
      exact .inr ⟨(top_bit_false_iff a).1 (by simpa using h7), h.symm⟩
  · rintro (⟨rfl, rfl, rfl⟩ | ⟨ha, rfl⟩)
    · rfl
    · rw [if_neg (by rw [(top_bit_false_iff a).2 ha]; exact Bool.false_ne_true)]

theorem decodeN_eq_ok {a : Byte} {b : Half} {imm : Half → Instr} {reg j : Instr} :
    decodeN a b imm reg = .ok j ↔ (a = 0x80 ∧ b = 0 ∧ j = reg) ∨ (a = 0 ∧ j = imm b) := by
  unfold decodeN
  constructor
  · intro h
    split at h
    · split at h
      · next hc => injection h with h; exact .inl ⟨hc.1, hc.2, h.symm⟩
      · cases h
    · split at h
      · next hc => injection h with h; exact .inr ⟨hc, h.symm⟩
      · cases h
  · rintro (⟨rfl, rfl, rfl⟩ | ⟨rfl, rfl⟩) <;> rfl

end Sys2Proof
end

