-- ==== Sys2Proof/Laws/Frame.lean ====
section
/-! SUPPORT. What every command leaves unchanged, the codes a command's checks raise, the legal accesses as propositions, and what a step can be. -/

namespace Sys2Proof.Machine

/-- What every command leaves when it succeeds: the packet's length, the accesses that wait, the data of the last
read and the draw; and, STAT_CLR apart, the error record. -/
theorem body_ok_frame {i : Instr} {s u : State} (h : body i s = .ok u) :
    u.inLen = s.inLen ∧ u.host = s.host ∧ u.busData = s.busData ∧ u.epoch = s.epoch ∧
      (i ≠ .statClr →
        u.flagSticky = s.flagSticky ∧ u.errcmd = s.errcmd ∧ u.flagBuserr = s.flagBuserr) := by
  cases i
  case statClr => cases h; exact ⟨rfl, rfl, rfl, rfl, fun h => absurd rfl h⟩
  case recover =>
    obtain ⟨-, rfl⟩ | ⟨-, i, -, -, rfl⟩ := recoverMissing_eq_ok.1 h <;>
      exact ⟨rfl, rfl, rfl, rfl, fun _ => ⟨rfl, rfl, rfl⟩⟩
  all_goals
    simp only [body, checkedFold_eq_ok, maskSet_eq_ok, maskClrb_eq_ok, maskTest_eq_ok,
      fecAssemble_eq_ok, fecDisassemble_eq_ok, Except.ok.injEq] at h
    try (split at h)
  all_goals first
    | (cases h; done)
    | (cases h; exact ⟨rfl, rfl, rfl, rfl, fun _ => ⟨rfl, rfl, rfl⟩⟩)
    | (obtain ⟨-, rfl⟩ := h; exact ⟨rfl, rfl, rfl, rfl, fun _ => ⟨rfl, rfl, rfl⟩⟩)
    | (obtain ⟨-, -, rfl⟩ := h; exact ⟨rfl, rfl, rfl, rfl, fun _ => ⟨rfl, rfl, rfl⟩⟩)
    | (obtain ⟨-, -, -, rfl⟩ := h; exact ⟨rfl, rfl, rfl, rfl, fun _ => ⟨rfl, rfl, rfl⟩⟩)

/-- The codes a command's checks raise are those of its row in the table of R104. -/
theorem body_error_mem {i : Instr} {s : State} {c : ErrCode} (h : body i s = .error c) :
    c.number ∈ raisableBy i := by
  cases i
  case fecAsm => obtain ⟨-, rfl⟩ | ⟨-, -, rfl⟩ | ⟨-, -, -, rfl⟩ := fecAssemble_eq_error.1 h <;> decide
  case fecParse => obtain ⟨-, rfl⟩ | ⟨-, -, -, rfl⟩ := fecDisassemble_eq_error.1 h <;> decide
  case recover => obtain ⟨-, rfl⟩ | ⟨-, -, -, rfl⟩ := recoverMissing_eq_error.1 h <;> decide
  all_goals
    simp only [body, checkedFold_eq_error, maskSet_eq_error, maskClrb_eq_error, maskTest_eq_error,
      reduceCtorEq] at h
    try (split at h)
  all_goals first
    | (cases h; done)
    | (obtain ⟨-, rfl⟩ := h; simp only [raisableBy, ErrCode.number]; decide)

/-- Taking an error writes the error record of R107 and nothing else. -/
theorem raiseErr_eq_errorRecord (w : Word) (c : ErrCode) (s : State) :
    raiseErr w c s = errorRecord w c.number s := rfl

/-- The length check of R72 in the statements' terms. -/
theorem packetOk_iff (lim : Limit) (s : State) :
    PacketOk lim s ↔ 12 ≤ s.inLen.toNat ∧ s.inLen.toNat ≤ limitOf lim := by cases lim <;> exact Iff.rfl

/-- ACC_FOLD of a packet of legal length makes both folds' updates (R76). -/
theorem body_accFold_of_packetOk {lim : Limit} {s : State} (h : PacketOk lim s) :
    body (.accFold lim) s = .ok (foldPay s.inLen.toNat (foldHdr s.inLen.toNat s)) := by
  obtain ⟨h1, h2⟩ := (packetOk_iff lim s).1 h
  exact (checkedFold_eq_ok (f := fun len t => foldPay len (foldHdr len t))).2 ⟨h1, h2, rfl⟩

/-! ### Legal accesses -/

theorem inBuffer_iff (a : Nat) : inBuffer a = true ↔ BufferAddr a := by
  simp only [inBuffer, Bool.or_eq_true, inIn_iff, inOut_iff, inPacc_iff, BufferAddr, or_assoc]

/-- The reads that R43 calls legal are those the bus accepts. -/
theorem readLegal_iff (w : Width) (a : Nat) : readLegal w a = true ↔ LegalRead w a := by
  have e : Config.regEnd = 0x64 := rfl
  cases w with
  | b8 => exact inBuffer_iff a
  | b16 => simp [readLegal, LegalRead]
  | b32 =>
    simp only [readLegal, LegalRead, Bool.and_eq_true, Bool.or_eq_true, decide_eq_true_eq, inBuffer_iff,
      e, Nat.lt_succ_iff]

/-- The writes that R43 calls legal are those the bus accepts. -/
theorem writeLegal_iff (w : Width) (a : Nat) : writeLegal w a = true ↔ LegalWrite w a := by
  have e1 : cmdAddr = 0x0000 := rfl
  have e2 : inLenAddr = 0x0010 := rfl
  have e3 : mwLoAddr = 0x002C := rfl
  have e4 : mwHiAddr = 0x0030 := rfl
  cases w with
  | b8 => exact inIn_iff a
  | b16 => simp [writeLegal, LegalWrite]
  | b32 =>
    simp only [writeLegal, LegalWrite, regWritable, Bool.and_eq_true, Bool.or_eq_true,
      decide_eq_true_eq, inIn_iff, e1, e2, e3, e4, or_assoc]

/-- A bus write changes a byte of the buffers only where it stores: at a byte write's address, or at one of the
four addresses of an aligned word write (R42, R43). -/
theorem byteAt_busStore {w : Width} {a : Nat} {d : Word} {s : State} {x : Nat}
    (h : byteAt (busStore w a d s) x ≠ byteAt s x) :
    (w = .b8 ∧ a = x) ∨ (w = .b32 ∧ a % 4 = 0 ∧ a ≤ x ∧ x < a + 4) := by
  by_cases hl : writeLegal w a = true
  · have hl' := (writeLegal_iff w a).1 hl
    unfold busStore at h
    rw [if_pos hl] at h
    cases w with
    | b8 =>
      refine .inl ⟨rfl, ?_⟩
      by_contra hx
      refine h ?_
      show memRead _ (memWrite _ _ _) _ = _
      rw [memRead_memWrite, if_neg (fun e => hx e.symm)]; rfl
    | b16 => exact hl'.elim
    | b32 =>
      refine .inr ⟨rfl, hl'.1, ?_⟩
      by_contra hx
      refine h ?_
      dsimp only
      split_ifs
      · rfl
      · rfl
      · rfl
      · show memRead _ (memWriteBytes _ _ _) _ = _
        rw [memRead_memWriteBytes, if_neg]
        · rfl
        · show ¬ (_ ∧ _ < _ + 4)
          exact hx
  · refine absurd ?_ h
    unfold busStore
    rw [if_neg hl]; rfl

/-! ### What a step can be -/

/-- A step with nothing waiting changes nothing (log 2). -/
theorem step_idle {s : State} (h : s.host = []) : step s = .next s := by
  simp only [step, serve, h]

/-- A step that serves a read (R46). -/
theorem step_read {s : State} {w : Width} {a : BitVec 16} {rest : List HostEvent}
    (h : s.host = .read w a :: rest) :
    step s = .next (busRead w a.toNat { s with host := rest }) := by
  simp only [step, serve, h, serveEvent]

/-- A step that serves a write other than a word written to CMD (R46). -/
theorem step_store {s : State} {w : Width} {a : BitVec 16} {d : Word} {rest : List HostEvent}
    (h : s.host = .write w a d :: rest) (hw : ¬ (w = .b32 ∧ a.toNat = cmdAddr)) :
    step s = .next (busStore w a.toNat d { s with host := rest }) := by
  simp only [step, serve, h, serveEvent, if_neg hw]

/-- A step that serves a word written to CMD (R46, R57). -/
theorem step_command {s : State} {a : BitVec 16} {d : Word} {rest : List HostEvent}
    (h : s.host = .write .b32 a d :: rest) (ha : a.toNat = cmdAddr) :
    step s = runCommand d { s with host := rest } := by
  simp only [step, serve, h, serveEvent, ha, and_self, if_true]

/-- A step that serves a reset (R117). -/
theorem step_reset {s : State} {rest : List HostEvent} (h : s.host = .reset :: rest) :
    step s = .next (afterReset { s with host := rest }) := by
  simp only [step, serve, h, serveEvent]

/-- All that a step can be, from the oldest waiting event. -/
theorem step_cases {s t : State} (h : step s = .next t) :
    (s.host = [] ∧ t = s) ∨
    (∃ rest, s.host = .reset :: rest ∧ t = afterReset { s with host := rest }) ∨
    (∃ rest w a, s.host = .read w a :: rest ∧ t = busRead w a.toNat { s with host := rest }) ∨
    (∃ rest w a d, s.host = .write w a d :: rest ∧ ¬ (w = .b32 ∧ a.toNat = cmdAddr) ∧
      t = busStore w a.toNat d { s with host := rest }) ∨
    (∃ rest a d, s.host = .write .b32 a d :: rest ∧ a.toNat = cmdAddr ∧
      ((∃ i, decode d = .ok i ∧ exec i { s with host := rest } = .next t) ∨
       ((∃ e, decode d = .error e) ∧ t = raiseErr d .illegalCmd { s with host := rest }))) := by
  cases hs : s.host with
  | nil => rw [step_idle hs] at h; cases h; exact .inl ⟨rfl, rfl⟩
  | cons e rest =>
    right
    cases e with
    | reset => rw [step_reset hs] at h; cases h; exact .inl ⟨rest, rfl, rfl⟩
    | read w a => rw [step_read hs] at h; cases h; exact .inr (.inl ⟨rest, w, a, rfl, rfl⟩)
    | write w a d =>
      right; right
      by_cases hw : w = .b32 ∧ a.toNat = cmdAddr
      · obtain ⟨rfl, ha⟩ := hw
        rw [step_command hs ha, runCommand] at h
        refine .inr ⟨rest, a, d, rfl, ha, ?_⟩
        split at h
        · next i hi => exact .inl ⟨i, hi, h⟩
        · next e he => cases h; exact .inr ⟨⟨e, he⟩, rfl⟩
      · rw [step_store hs hw] at h; cases h
        exact .inl ⟨rest, w, a, d, rfl, hw, rfl⟩

end Sys2Proof.Machine
end

