-- ==== Sys2Proof/Laws/FecPacket.lean ====
section
/-! SUPPORT. The FEC packet in its parts, byte by byte, and the model's sizes and checks in the statements' terms. -/

namespace Sys2Proof.Machine

theorem maskDoesNotFit_eq_false (s : State) : maskDoesNotFit s = false ↔ MaskFits s := by
  unfold maskDoesNotFit MaskFits
  cases h : s.islong <;> simp [hasLongBit_eq_false]

theorem maskLen_eq (long : Bool) : maskLen long = mlOf long := rfl

theorem padCount_eq (n : Nat) : padCount n = padTo4 n := by unfold padCount padTo4; split <;> omega

theorem padTo4_lt (n : Nat) : padTo4 n < 4 := by unfold padTo4; split <;> omega

theorem padTo4_aligns (n : Nat) : (n + padTo4 n) % 4 = 0 := by unfold padTo4; split <;> omega

theorem unpaddedLen_eq (s : State) : unpaddedLen s.islong s.pmax.toNat = asmL0 s := rfl

/-- The length of the packet that FEC_ASM assembles (R95). -/
theorem fecPacketLen_eq (s : State) :
    fecPacketLen Config.padStyle s = asmL0 s + padTo4 (asmL0 s) := by
  rw [← padCount_eq, ← unpaddedLen_eq]; exact fecPacketLen_align s

/-- Bytes 0 to 23 of the assembled packet. -/
def fecFixedPart (s : State) : List Byte :=
  fecRtpHeader .rtpByte0 (padTo4 (asmL0 s)) s ++ fecHeader .rtpByte0 (padTo4 (asmL0 s)) s
    ++ toBE16 s.pmax

theorem fecFixedPart_length (s : State) : (fecFixedPart s).length = 24 := rfl

/-- The assembled packet: its fixed part, the mask, the payload and the padding (R61 to R67). -/
theorem fecPacket_parts (s : State) :
    fecPacket .align .rtpByte0 s =
      fecFixedPart s ++ (maskWire s.mask s.islong ++ (paccBytesTo s s.pmax.toNat
        ++ padBytes .align (padTo4 (asmL0 s)))) := by
  rw [fecPacket, unpaddedLen_eq, padCount_eq]
  simp only [fecFixedPart, List.append_assoc]

theorem getD_append_left {α : Type} (a b : List α) (d : α) (n : Nat) (h : n < a.length) :
    (a ++ b).getD n d = a.getD n d := by
  simp [List.getD, List.getElem?_append_left h]

theorem getD_append_right {α : Type} (a b : List α) (d : α) (n : Nat) (h : a.length ≤ n) :
    (a ++ b).getD n d = b.getD (n - a.length) d := by
  simp [List.getD, List.getElem?_append_right h]

theorem fecPacket_getD_fixed (s : State) (k : Nat) (h : k < 24) :
    (fecPacket .align .rtpByte0 s).getD k 0 = (fecFixedPart s).getD k 0 := by
  rw [fecPacket_parts, getD_append_left _ _ _ _ (by rw [fecFixedPart_length]; exact h)]

theorem fecPacket_getD_mask (s : State) (k : Nat) (h : k < mlOf s.islong) :
    (fecPacket .align .rtpByte0 s).getD (24 + k) 0 = (maskWire s.mask s.islong).getD k 0 := by
  rw [fecPacket_parts, getD_append_right _ _ _ _ (by rw [fecFixedPart_length]; omega),
    fecFixedPart_length, show 24 + k - 24 = k by omega,
    getD_append_left _ _ _ _ (by rw [maskWire_length_eq, maskLen_eq]; exact h)]

theorem fecPacket_getD_payload (s : State) (k : Nat) (h : k < s.pmax.toNat) :
    (fecPacket .align .rtpByte0 s).getD (24 + mlOf s.islong + k) 0 = paccByte s k := by
  rw [fecPacket_parts, getD_append_right _ _ _ _ (by rw [fecFixedPart_length]; omega),
    fecFixedPart_length,
    getD_append_right _ _ _ _ (by rw [maskWire_length_eq, maskLen_eq]; omega),
    maskWire_length_eq, maskLen_eq, show 24 + mlOf s.islong + k - 24 - mlOf s.islong = k by omega,
    getD_append_left _ _ _ _ (by rw [paccBytesTo_length]; exact h), paccBytesTo_getD s _ k h]

theorem fecPacket_getD_padding (s : State) (k : Nat) :
    (fecPacket .align .rtpByte0 s).getD (asmL0 s + k) 0 =
      (padBytes .align (padTo4 (asmL0 s))).getD k 0 := by
  have hL0 : asmL0 s = 24 + mlOf s.islong + s.pmax.toNat := rfl
  rw [fecPacket_parts, getD_append_right _ _ _ _ (by rw [fecFixedPart_length]; omega),
    fecFixedPart_length,
    getD_append_right _ _ _ _ (by rw [maskWire_length_eq, maskLen_eq]; omega),
    maskWire_length_eq, maskLen_eq,
    getD_append_right _ _ _ _ (by rw [paccBytesTo_length]; omega), paccBytesTo_length,
    show asmL0 s + k - 24 - mlOf s.islong - s.pmax.toNat = k by omega]

/-- Byte `k` of OUT after FEC_ASM is byte `k` of the packet. -/
theorem outByte_fecEmit (s : State) (k : Nat) (h : k < asmL0 s + padTo4 (asmL0 s)) :
    outByte (fecEmit .align .rtpByte0 s) k = (fecPacket .align .rtpByte0 s).getD k 0 := by
  have eo : Config.outBase = 0x2000 := rfl
  have L : fecPacketLen .align s = asmL0 s + padTo4 (asmL0 s) := fecPacketLen_eq s
  rw [outByte, byteAt_fecEmit, if_pos (by rw [L]; omega), eo,
    show 0x2000 + k - 0x2000 = k by omega]

end Sys2Proof.Machine
end

