-- ==== Sys2Proof/Laws/PerInstr.lean ====
section
/-! SUPPORT. The per-instruction family: the word of a well-formed command spells the command's own row of the opcode table, and no other (R56). -/

namespace Sys2Proof

/-- The word of the command, when its operands fit, spells the row of spec/opcode_table.json that the command's form
has, and spells no other row (R56). -/
def Laws.SpellsRow.Statement (i : Instr) : Prop :=
  WellFormed i → ∀ r ∈ opcodeTable, r.spelledBy (encode i) = true ↔ r = formRow i

/-- No two rows of the table agree on the bits that both fix. -/
theorem opcodeTable_disjoint : ∀ r ∈ opcodeTable, ∀ r' ∈ opcodeTable,
    r.pattern &&& r'.fixedBits = r'.pattern &&& r.fixedBits → r = r' := by
  have h : ∀ r ∈ opcodeTable, ∀ r' ∈ opcodeTable,
      (r.pattern &&& r'.fixedBits) ≠ (r'.pattern &&& r.fixedBits) ∨ r = r' := by decide
  intro r hr r' hr' he
  exact (h r hr r' hr').resolve_left fun hn => hn he

/-- A word spells at most one row. -/
theorem spelledBy_unique {w : Word} {r r' : FormRow} (hr : r ∈ opcodeTable) (hr' : r' ∈ opcodeTable)
    (h : r.spelledBy w = true) (h' : r'.spelledBy w = true) : r = r' := by
  refine opcodeTable_disjoint r hr r' hr' ?_
  simp only [FormRow.spelledBy, beq_iff_eq] at h h'
  rw [← h, ← h', BitVec.and_assoc, BitVec.and_assoc, BitVec.and_comm r.fixedBits]

/-- Every command's form has a row of the table. -/
theorem formRow_mem (i : Instr) : formRow i ∈ opcodeTable := by
  cases i <;> simp only [formRow] <;> decide

/-- A word that spells the command's row spells that row only. -/
theorem Laws.spellsRow_of_own {i : Instr} (h : (formRow i).spelledBy (encode i) = true) :
    Laws.SpellsRow.Statement i := fun _ _ hr =>
  ⟨fun hs => spelledBy_unique hr (formRow_mem i) hs h, fun e => e ▸ h⟩

/-! ### The operand fields leave the fixed bits -/

theorem and_0x80_of_fits : ∀ a : Byte, a.toNat < 128 → a &&& 0x80 = 0 := by decide

theorem and_0xC0_of_fits : ∀ a : Byte, a.toNat < 64 → a &&& 0xC0 = 0 := by decide

theorem limField_and (lim : Limit) : limField lim &&& 0xFE = 0 := by cases lim <;> decide

theorem half_and_zero (b : Half) : b &&& 0 = 0 := by simp

/-- The words of a row with a fixed `OP`, `A` bits `m1` and `B` bits `m2`, all 0 where fixed. -/
theorem spelledBy_mkWord {op a m1 : Byte} {b m2 : Half} (ha : a &&& m1 = 0) (hb : b &&& m2 = 0) :
    FormRow.spelledBy ⟨mkWord op 0 0, mkWord 0xFF m1 m2⟩ (mkWord op a b) = true := by
  have z : op &&& 0xFF = op := by
    rw [show (0xFF : Byte) = BitVec.allOnes 8 by decide, BitVec.and_allOnes]
  simp only [FormRow.spelledBy, mkWord_and, ha, hb, z, beq_self_eq_true]

/-! ### One lemma per command -/

theorem Laws.SpellsRow.nop : Laws.SpellsRow.Statement .nop :=
  Laws.spellsRow_of_own (by decide)

theorem Laws.SpellsRow.ctxNew (pt : Byte) : Laws.SpellsRow.Statement (.ctxNew pt) :=
  fun h =>
  Laws.spellsRow_of_own (spelledBy_mkWord (op := 0x01) (m1 := 0x80) (m2 := 0xFFFF) (and_0x80_of_fits pt h) rfl) h

theorem Laws.SpellsRow.statClr : Laws.SpellsRow.Statement .statClr :=
  Laws.spellsRow_of_own (by decide)

theorem Laws.SpellsRow.accClr : Laws.SpellsRow.Statement .accClr :=
  Laws.spellsRow_of_own (by decide)

theorem Laws.SpellsRow.accFoldHdr (lim : Limit) : Laws.SpellsRow.Statement (.accFoldHdr lim) :=
  Laws.spellsRow_of_own (spelledBy_mkWord (op := 0x11) (m1 := 0xFE) (m2 := 0xFFFF) (limField_and lim) rfl)

theorem Laws.SpellsRow.accFoldPay (lim : Limit) : Laws.SpellsRow.Statement (.accFoldPay lim) :=
  Laws.spellsRow_of_own (spelledBy_mkWord (op := 0x12) (m1 := 0xFE) (m2 := 0xFFFF) (limField_and lim) rfl)

theorem Laws.SpellsRow.accFold (lim : Limit) : Laws.SpellsRow.Statement (.accFold lim) :=
  Laws.spellsRow_of_own (spelledBy_mkWord (op := 0x13) (m1 := 0xFE) (m2 := 0xFFFF) (limField_and lim) rfl)

theorem Laws.SpellsRow.maskClr : Laws.SpellsRow.Statement .maskClr :=
  Laws.spellsRow_of_own (by decide)

theorem Laws.SpellsRow.maskSetImm (ofs : Byte) : Laws.SpellsRow.Statement (.maskSetImm ofs) :=
  fun h =>
  Laws.spellsRow_of_own (spelledBy_mkWord (op := 0x21) (m1 := 0xC0) (m2 := 0xFFFF) (and_0xC0_of_fits ofs h) rfl) h

theorem Laws.SpellsRow.maskSetOff : Laws.SpellsRow.Statement .maskSetOff :=
  Laws.spellsRow_of_own (by decide)

theorem Laws.SpellsRow.maskClrbImm (ofs : Byte) : Laws.SpellsRow.Statement (.maskClrbImm ofs) :=
  fun h =>
  Laws.spellsRow_of_own (spelledBy_mkWord (op := 0x22) (m1 := 0xC0) (m2 := 0xFFFF) (and_0xC0_of_fits ofs h) rfl) h

theorem Laws.SpellsRow.maskClrbOff : Laws.SpellsRow.Statement .maskClrbOff :=
  Laws.spellsRow_of_own (by decide)

theorem Laws.SpellsRow.maskTestImm (ofs : Byte) : Laws.SpellsRow.Statement (.maskTestImm ofs) :=
  fun h =>
  Laws.spellsRow_of_own (spelledBy_mkWord (op := 0x23) (m1 := 0xC0) (m2 := 0xFFFF) (and_0xC0_of_fits ofs h) rfl) h

theorem Laws.SpellsRow.maskTestOff : Laws.SpellsRow.Statement .maskTestOff :=
  Laws.spellsRow_of_own (by decide)

theorem Laws.SpellsRow.maskCnt : Laws.SpellsRow.Statement .maskCnt :=
  Laws.spellsRow_of_own (by decide)

theorem Laws.SpellsRow.maskFirst : Laws.SpellsRow.Statement .maskFirst :=
  Laws.spellsRow_of_own (by decide)

theorem Laws.SpellsRow.maskIslongImm (gs : Byte) (mo : Half) : Laws.SpellsRow.Statement (.maskIslongImm gs mo) :=
  fun h =>
  Laws.spellsRow_of_own
    (spelledBy_mkWord (op := 0x26) (m1 := 0x80) (m2 := 0) (and_0x80_of_fits gs h) (half_and_zero mo)) h

theorem Laws.SpellsRow.maskIslongAcc : Laws.SpellsRow.Statement .maskIslongAcc :=
  Laws.spellsRow_of_own (by decide)

theorem Laws.SpellsRow.maskEnc : Laws.SpellsRow.Statement .maskEnc :=
  Laws.spellsRow_of_own (by decide)

theorem Laws.SpellsRow.maskDec : Laws.SpellsRow.Statement .maskDec :=
  Laws.spellsRow_of_own (by decide)

theorem Laws.SpellsRow.snOffImm (sn : Half) : Laws.SpellsRow.Statement (.snOffImm sn) :=
  Laws.spellsRow_of_own (spelledBy_mkWord (op := 0x30) (m1 := 0xFF) (m2 := 0) rfl (half_and_zero sn))

theorem Laws.SpellsRow.snOffRtp : Laws.SpellsRow.Statement .snOffRtp :=
  Laws.spellsRow_of_own (by decide)

theorem Laws.SpellsRow.snAddImm (k : Half) : Laws.SpellsRow.Statement (.snAddImm k) :=
  Laws.spellsRow_of_own (spelledBy_mkWord (op := 0x31) (m1 := 0xFF) (m2 := 0) rfl (half_and_zero k))

theorem Laws.SpellsRow.snAddOff : Laws.SpellsRow.Statement .snAddOff :=
  Laws.spellsRow_of_own (by decide)

theorem Laws.SpellsRow.snSetbaseImm (sn : Half) : Laws.SpellsRow.Statement (.snSetbaseImm sn) :=
  Laws.spellsRow_of_own (spelledBy_mkWord (op := 0x32) (m1 := 0xFF) (m2 := 0) rfl (half_and_zero sn))

theorem Laws.SpellsRow.snSetbaseRtp : Laws.SpellsRow.Statement .snSetbaseRtp :=
  Laws.spellsRow_of_own (by decide)

theorem Laws.SpellsRow.rtpParse (lim : Limit) : Laws.SpellsRow.Statement (.rtpParse lim) :=
  Laws.spellsRow_of_own (spelledBy_mkWord (op := 0x40) (m1 := 0xFE) (m2 := 0xFFFF) (limField_and lim) rfl)

theorem Laws.SpellsRow.fecAsm : Laws.SpellsRow.Statement .fecAsm :=
  Laws.spellsRow_of_own (by decide)

theorem Laws.SpellsRow.fecParse : Laws.SpellsRow.Statement .fecParse :=
  Laws.spellsRow_of_own (by decide)

theorem Laws.SpellsRow.recover : Laws.SpellsRow.Statement .recover :=
  Laws.spellsRow_of_own (by decide)

end Sys2Proof
end

