-- ==== Sys2Proof/Machine/HostProcedures.lean ====
section
/-! DEFINITION. The reference host procedures over `step` (spec/47_host_procedures.md R99 to R102): host software, not part of the block. -/

namespace Sys2Proof.Machine

/-- A packet as the host holds it. -/
abbrev Packet := List Byte

/-- The source's error kinds (R102). -/
inductive SourceError where
  | invalidArgument
  | outOfMemory
  | unrecoverable
  deriving DecidableEq, Repr

/-- Let the block serve one host event now; no value if the block stopped, which it never does. -/
def hostDo (e : HostEvent) (s : State) : Option State :=
  match step { s with host := e :: s.host } with
  | .next t => some t
  | .fault _ => none
  | .refused _ => none

/-- Serve events in order. -/
def hostDoAll : List HostEvent → State → Option State
  | [], s => some s
  | e :: es, s =>
    match hostDo e s with
    | some t => hostDoAll es t
    | none => none

/-- Write a command's word to CMD. -/
def issue (i : Instr) (s : State) : Option State :=
  hostDo (.write .b32 (BitVec.ofNat 16 cmdAddr) (encode i)) s

/-- Issue commands in order, stopping at the first that fails (R59, R102). -/
def issueAll : List Instr → State → Option State
  | [], s => some s
  | i :: is, s =>
    match issue i s with
    | some t => if t.err = 0 then issueAll is t else some t
    | none => none

/-- The byte writes of a packet into `IN[i..]`. -/
def packetWrites : Nat → Packet → List HostEvent
  | _, [] => []
  | i, b :: bs =>
    .write .b8 (BitVec.ofNat 16 (Config.inBase + i)) (b.setWidth 32) :: packetWrites (i + 1) bs

/-- `host: write q to IN[0..len(q)-1]; IN_LEN <- len(q)` (R100, R101). -/
def loadPacket (q : Packet) (s : State) : Option State :=
  hostDoAll
    (packetWrites 0 q ++ [.write .b32 (BitVec.ofNat 16 inLenAddr) (BitVec.ofNat 32 q.length)]) s

/-- `OUT[0..OUT_LEN-1]`. -/
def outPacket (s : State) : Packet := (List.range s.outLen.toNat).map fun j => outByte s j

/-- The source's kind for a failing command of ENCODE (R102). -/
def encodeError (code : BitVec 4) : SourceError :=
  if code = ErrCode.outOfMemory.number then .outOfMemory else .invalidArgument

/-- The source's kind for a failing command of DECODE (R102). -/
def decodeError (code : BitVec 4) : SourceError :=
  if code = ErrCode.unrecoverable.number then .unrecoverable
  else if code = ErrCode.outOfMemory.number then .outOfMemory
  else .invalidArgument

/-- `FecContext::new(payloadType)` (R99). -/
def contextNew (pt : Byte) (s : State) : Option State := issue (.ctxNew pt) s

/-! ### ENCODE (R100) -/

/-- Fold the packets of one group: write each to IN and run FOLD_ENC, stopping at a failure. -/
def encodeFolds : List Packet → State → Option State
  | [], s => some s
  | q :: qs, s =>
    match loadPacket q s with
    | none => none
    | some t =>
      match issueAll Pseudo.foldEnc.expand t with
      | none => none
      | some u => if u.err = 0 then encodeFolds qs u else some u

/-- One group: GROUP_BEGIN, the folds, EMIT. -/
def encodeGroup (group : List Packet) (s : State) : Option State :=
  match issueAll Pseudo.groupBegin.expand s with
  | none => none
  | some t =>
    match encodeFolds group t with
    | none => none
    | some u => if u.err = 0 then issueAll Pseudo.emit.expand u else some u

/-- The groups in order, collecting the emitted packets; the first failure discards them all (R102). -/
def encodeGroups : List (List Packet) → List Packet → State →
    Option (Except SourceError (List Packet) × State)
  | [], out, s => some (.ok out, s)
  | g :: gs, out, s =>
    match encodeGroup g s with
    | none => none
    | some t =>
      if t.err = 0 then encodeGroups gs (out ++ [outPacket t]) t
      else some (.error (encodeError t.err), t)

/-- The first `g` groups of `size` packets; the trailing remainder is dropped (R100). -/
def groupsOf (size : Nat) : Nat → List Packet → List (List Packet)
  | 0, _ => []
  | g + 1, packets => packets.take size :: groupsOf size g (packets.drop size)

/-- `ENCODE(packets, groupSize)` (R100). -/
def encodeProc (packets : List Packet) (groupSize : Nat) (s : State) :
    Option (Except SourceError (List Packet) × State) :=
  if groupSize < 1 ∨ Config.maxGroup < groupSize then some (.error .invalidArgument, s)
  else if packets.any (fun q =>
      decide (q.length < Config.minLen) || decide (Config.maxEncLen < q.length)) then
    some (.error .invalidArgument, s)
  else if packets.length / groupSize = 0 then some (.error .invalidArgument, s)
  else encodeGroups (groupsOf groupSize (packets.length / groupSize) packets) [] s

/-! ### DECODE (R101) -/

/-- The partition pass from packet number `k` on: the numbers of the FEC candidates, or the code of the
command that failed, and the state (R101). -/
def decodePartition : Nat → List Packet → List Nat → State →
    Option (Except (BitVec 4) (List Nat) × State)
  | _, [], cand, s => some (.ok cand, s)
  | k, q :: qs, cand, s =>
    match loadPacket q s with
    | none => none
    | some t =>
      match issue (.rtpParse .dec) t with
      | none => none
      | some u =>
        if u.err = 0 then decodePartition (k + 1) qs (if u.flagIsfec then cand ++ [k] else cand) u
        else some (.error u.err, u)

/-- One original: fold it and clear its bit when it lies in the window and its bit is set (R101). -/
def decodeOriginal (q : Packet) (s : State) : Option State :=
  match loadPacket q s with
  | none => none
  | some t =>
    match issueAll [.rtpParse .dec, .snOffRtp] t with
    | none => none
    | some u =>
      if u.err = 0 ∧ u.flagInwin then
        match issue .maskTestOff u with
        | none => none
        | some v => if v.err = 0 ∧ v.flagBit then issueAll [.accFold .dec, .maskClrbOff] v else some v
      else some u

/-- The originals in input order, from packet number `k` on, the candidate `c` left out. -/
def decodeScan (c : Nat) : Nat → List Packet → State → Option State
  | _, [], s => some s
  | k, q :: qs, s =>
    if k = c then decodeScan c (k + 1) qs s
    else
      match decodeOriginal q s with
      | none => none
      | some t => if t.err = 0 then decodeScan c (k + 1) qs t else some t

/-- The decision of RECOVER as DECODE's answer (R101, R102). -/
def decodeFinish (s : State) : Option (Except SourceError (Option Packet) × State) :=
  match issue .recover s with
  | none => none
  | some t =>
    if t.err = 0 then some (.ok (if t.flagNone then none else some (outPacket t)), t)
    else some (.error (decodeError t.err), t)

/-- FEC_PARSE of the candidate, the scan of the originals, the decision (R101). -/
def decodeWith (c : Nat) (packets : List Packet) (s : State) :
    Option (Except SourceError (Option Packet) × State) :=
  match loadPacket (packets.getD c []) s with
  | none => none
  | some t =>
    match issue .fecParse t with
    | none => none
    | some u =>
      if u.err = 0 then
        match decodeScan c 0 packets u with
        | none => none
        | some v => if v.err = 0 then decodeFinish v else some (.error (decodeError v.err), v)
      else some (.error (decodeError u.err), u)

/-- `DECODE(packets)` (R101). -/
def decodeProc (packets : List Packet) (s : State) :
    Option (Except SourceError (Option Packet) × State) :=
  if packets.any (fun q =>
      decide (q.length < Config.minLen) || decide (Config.maxDecLen < q.length)) then
    some (.error .invalidArgument, s)
  else
    match decodePartition 0 packets [] s with
    | none => none
    | some (.error code, t) => some (.error (decodeError code), t)
    | some (.ok [], t) => some (.ok none, t)
    | some (.ok [c], t) => decodeWith c packets t
    | some (.ok (_ :: _ :: _), t) => some (.error .invalidArgument, t)

end Sys2Proof.Machine
end

