-- ==== Sys2Proof/Tests/Slice0.lean ====
section
/-! SUPPORT. Tests: expected results from spec/95_test_vectors.md (derived there from the rules) or worked out from the cited rule, and the witnesses of the statements' hypotheses. -/

namespace Sys2Proof.Tests

open Sys2Proof Sys2Proof.Machine

/-! ### Helpers -/

/-- The state after one word written to CMD. -/
def sent (w : Word) (s : State) : State :=
  match step { s with host := [.write .b32 0x0000 w] } with
  | .next t => t
  | .fault _ => s
  | .refused _ => s

/-- The state after one host event. -/
def done (e : HostEvent) (s : State) : State :=
  match step { s with host := [e] } with
  | .next t => t
  | .fault _ => s
  | .refused _ => s

/-- The state with a packet in IN and its length in IN_LEN. -/
def loaded (bs : List Byte) (s : State) : State :=
  { s with mem := memWriteBytes s.mem 0x1000 bs, inLen := BitVec.ofNat 16 bs.length }

/-- The state after reset with a value of IN_LEN. -/
def ofLen (n : Half) : State := { State.reset with inLen := n }

/-- The 12-byte header of 95 1.1 with a byte 1 and a sequence number below 256. -/
def hdr (b1 sn : Byte) : List Byte :=
  [0x80, b1, 0x00, sn, 0x12, 0x34, 0x56, 0x78, 0xDE, 0xAD, 0xBE, 0xEF]

/-- The FEC packet F of 95 2.8. -/
def packetF : List Byte :=
  [0x80, 0xF8, 0x00, 0x07, 0x12, 0x34, 0x56, 0x78, 0xDE, 0xAD, 0xBE, 0xEF, 0x00, 0x60, 0x00, 0x64,
   0x12, 0x34, 0x56, 0x78, 0x00, 0x02, 0x00, 0x02, 0x80, 0x00, 0xAA, 0xBB]

/-- CTX_NEW #120 on a fresh instance. -/
def fresh : State := { State.reset with fecPt := 120 }

/-- A state with a mask. -/
def masked (m : Mask) : State := { State.reset with mask := m }

/-- The bytes of OUT from 0 on. -/
def outBytes (n : Nat) (s : State) : List Byte := (List.range n).map (outByte s)

/-! ### Well-formedness: each check refuses an ill-formed command (R52, R57, R58) -/

theorem test_wf_pt_refuses_128 : ¬ WellFormed (.ctxNew 128) := by decide
theorem test_wf_ofs_set_refuses_64 : ¬ WellFormed (.maskSetImm 64) := by decide
theorem test_wf_ofs_clrb_refuses_64 : ¬ WellFormed (.maskClrbImm 64) := by decide
theorem test_wf_ofs_test_refuses_64 : ¬ WellFormed (.maskTestImm 64) := by decide
theorem test_wf_gs_refuses_128 : ¬ WellFormed (.maskIslongImm 128 0) := by decide
theorem test_wf_bounds_accepted : WellFormed (.ctxNew 127) ∧ WellFormed (.maskSetImm 63) ∧
    WellFormed (.maskIslongImm 127 65535) := by decide

/-! ### Decoding: one word per constructor, written out from R52 and R55 -/

theorem test_decode_nop : decode 0x00000000 = .ok .nop := by rfl
theorem test_decode_ctxNew : decode 0x01780000 = .ok (.ctxNew 120) := by rfl
theorem test_decode_statClr : decode 0x02000000 = .ok .statClr := by rfl
theorem test_decode_accClr : decode 0x10000000 = .ok .accClr := by rfl
theorem test_decode_accFoldHdr : decode 0x11010000 = .ok (.accFoldHdr .enc) := by rfl
theorem test_decode_accFoldPay : decode 0x12000000 = .ok (.accFoldPay .dec) := by rfl
theorem test_decode_accFold : decode 0x13010000 = .ok (.accFold .enc) := by rfl
theorem test_decode_maskClr : decode 0x20000000 = .ok .maskClr := by rfl
theorem test_decode_maskSetImm : decode 0x21030000 = .ok (.maskSetImm 3) := by rfl
theorem test_decode_maskSetOff : decode 0x21800000 = .ok .maskSetOff := by rfl
theorem test_decode_maskClrbImm : decode 0x222F0000 = .ok (.maskClrbImm 47) := by rfl
theorem test_decode_maskClrbOff : decode 0x22800000 = .ok .maskClrbOff := by rfl
theorem test_decode_maskTestImm : decode 0x233F0000 = .ok (.maskTestImm 63) := by rfl
theorem test_decode_maskTestOff : decode 0x23800000 = .ok .maskTestOff := by rfl
theorem test_decode_maskCnt : decode 0x24000000 = .ok .maskCnt := by rfl
theorem test_decode_maskFirst : decode 0x25000000 = .ok .maskFirst := by rfl
theorem test_decode_maskIslongImm : decode 0x26140013 = .ok (.maskIslongImm 20 19) := by rfl
theorem test_decode_maskIslongAcc : decode 0x26800000 = .ok .maskIslongAcc := by rfl
theorem test_decode_maskEnc : decode 0x27000000 = .ok .maskEnc := by rfl
theorem test_decode_maskDec : decode 0x28000000 = .ok .maskDec := by rfl
theorem test_decode_snOffImm : decode 0x3000FFF9 = .ok (.snOffImm 65529) := by rfl
theorem test_decode_snOffRtp : decode 0x30800000 = .ok .snOffRtp := by rfl
theorem test_decode_snAddImm : decode 0x31000001 = .ok (.snAddImm 1) := by rfl
theorem test_decode_snAddOff : decode 0x31800000 = .ok .snAddOff := by rfl
theorem test_decode_snSetbaseImm : decode 0x3200FFFA = .ok (.snSetbaseImm 65530) := by rfl
theorem test_decode_snSetbaseRtp : decode 0x32800000 = .ok .snSetbaseRtp := by rfl
theorem test_decode_rtpParse : decode 0x40000000 = .ok (.rtpParse .dec) := by rfl
theorem test_decode_fecAsm : decode 0x50000000 = .ok .fecAsm := by rfl
theorem test_decode_fecParse : decode 0x51000000 = .ok .fecParse := by rfl
theorem test_decode_recover : decode 0x52000000 = .ok .recover := by rfl

/-! ### Illegal words (95 2.1; R57) -/

theorem test_illegal_nop_b : decode 0x00000001 = .error .reservedBitSet := by rfl
theorem test_illegal_ctxNew_a7 : decode 0x01800000 = .error .reservedBitSet := by rfl
theorem test_illegal_fold_a1 : decode 0x11020000 = .error .reservedBitSet := by rfl
theorem test_illegal_set_a6 : decode 0x21400000 = .error .reservedBitSet := by rfl
theorem test_illegal_set_s1_a6 : decode 0x21C00000 = .error .reservedBitSet := by rfl
theorem test_illegal_set_s1_low : decode 0x21BF0000 = .error .reservedBitSet := by rfl
theorem test_illegal_test_off_b : decode 0x23800001 = .error .reservedBitSet := by rfl
theorem test_illegal_snOff_a : decode 0x30010000 = .error .reservedBitSet := by rfl
theorem test_illegal_op_53 : decode 0x53000000 = .error .unassignedOpcode := by rfl
theorem test_illegal_op_ff : decode 0xFF000000 = .error .unassignedOpcode := by rfl

/-- The interface of R51: 32 bits of a table row, and the words above it zero. -/
theorem test_decodeTableWord : decodeTableWord 32 0x21030000 = some (.maskSetImm 3) ∧
    decodeTableWord 32 0xFF000000 = none := by decide

/-- The first step after reset with a placed word runs it (95 2.2). -/
theorem test_withFetchWord : (match step (State.reset.withFetchWord 32 0x01780000) with
    | .next t => regWord t 0x0018 | _ => 0) = 0x00000078 := by decide

/-! ### One step per instruction (95 Part 2) -/

theorem test_nop_clears_err : regWord (sent 0x00000000 { State.reset with err := 2, flagSticky := true }) 0x0004 = 0x00008000 := by decide
theorem test_ctxNew_restarts_seq : regWord (sent 0x01600000 { fresh with fecSeq := 0x2A }) 0x0018 = 0x00000060 := by decide
theorem test_statClr_keeps_flags : regWord (sent 0x02000000 { State.reset with flagSticky := true, flagBit := true, flagInwin := true, flagNone := true }) 0x0004 = 0x000000B0 := by decide
theorem test_statClr_clears_errcmd : regWord (sent 0x02000000 { State.reset with flagSticky := true, flagBuserr := true, err := 6, errcmd := 0x52000000 }) 0x000C = 0 := by decide
theorem test_accClr_keeps_snbase : regWord (sent 0x10000000 { State.reset with snbase := 0x64, snbValid := true, fcnt := 3, pmax := 20 }) 0x001C = 0x00000064 := by decide
theorem test_accClr_zeroes_pacc : paccByte (sent 0x10000000 { State.reset with mem := [(0x3000, 5), (0x35B3, 6)], pmax := 1460 }) 1459 = 0 := by decide
theorem test_accFoldHdr_hacc : (sent 0x11010000 { loaded (hdr 0x60 0x64) State.reset with inLen := 32 }).hacc = #v[0x80, 0x60, 0x00, 0x64, 0x12, 0x34, 0x56, 0x78, 0x00, 0x14] := by decide
theorem test_accFoldHdr_base : regWord (sent 0x11010000 (loaded (hdr 0x60 0x64) State.reset)) 0x001C = 0x00010064 := by decide
theorem test_accFoldPay_pacc : (paccBytesTo (sent 0x12010000 (loaded (hdr 0x60 0x64 ++ [0x10, 0x20]) { State.reset with mem := [(0x3000, 1), (0x3001, 2), (0x3002, 3)], pmax := 3 })) 4) = [0x11, 0x22, 0x03, 0x00] := by decide
theorem test_accFoldPay_pmax : regWord (sent 0x12010000 (loaded (hdr 0x60 0x64 ++ [1, 2, 3]) State.reset)) 0x0034 = 0x00030000 := by decide
theorem test_accFold_invalidLen : sent 0x13010000 (ofLen 11) = { ofLen 11 with err := 2, flagSticky := true, errcmd := 0x13010000 } := by decide
theorem test_accFold_both : (regWord (sent 0x13000000 (loaded (hdr 0x60 0x64 ++ [7]) State.reset)) 0x0034, paccByte (sent 0x13000000 (loaded (hdr 0x60 0x64 ++ [7]) State.reset)) 0) = (0x00010001, 7) := by decide
theorem test_maskClr : (sent 0x20000000 (masked 0xFFFFFFFFFFFF)).mask = 0 := by decide
theorem test_maskSetImm : (sent 0x21030000 State.reset).mask = 0x000000000008 := by decide
theorem test_maskSetImm_63 : regWord (sent 0x213F0000 State.reset) 0x0004 = 0x00008003 := by decide
theorem test_maskSetOff_47 : (sent 0x21800000 { State.reset with off := 47 }).mask = 0x800000000000 := by decide
theorem test_maskClrbImm : (sent 0x22010000 (masked 0x00000000000F)).mask = 0x00000000000D := by decide
theorem test_maskClrbOff : (sent 0x22800000 { masked 0x00000000000F with off := 2 }).mask = 0x00000000000B := by decide
theorem test_maskTestImm_1 : regWord (sent 0x23020000 (masked 0x00000000000D)) 0x0004 = 0x00000080 := by decide
theorem test_maskTestImm_0 : regWord (sent 0x23010000 { masked 0x00000000000D with res := 9 }) 0x0008 = 0 := by decide
theorem test_maskTestOff_48 : sent 0x23800000 { State.reset with off := 48, res := 9 } = { State.reset with off := 48, res := 9, err := 3, flagSticky := true, errcmd := 0x23800000 } := by decide
theorem test_maskCnt : (sent 0x24000000 (masked 0xFFFFFFFFFFFF)).res = 48 := by decide
theorem test_maskFirst : (sent 0x25000000 (masked 0x00000000000C)).res = 2 := by decide
theorem test_maskFirst_none : regWord (sent 0x25000000 { State.reset with res := 9 }) 0x0004 = 0x00000010 := by decide
theorem test_maskIslongImm_16_15 : (sent 0x2610000F { State.reset with islong := true }).islong = false := by decide
theorem test_maskIslongImm_16_16 : (sent 0x26100010 State.reset).islong = true := by decide
theorem test_maskIslongAcc : (sent 0x26800000 { masked 0x000000100000 with fcnt := 3 }).islong = true := by decide
theorem test_maskIslongAcc_empty : (sent 0x26800000 { State.reset with islong := true }).islong = false := by decide
theorem test_maskEnc_short : (sent 0x27000000 (masked 0x00000000000F)).mw = #v[0xF0, 0x00, 0x00, 0x00, 0x00, 0x00] := by decide
theorem test_maskEnc_long : (sent 0x27000000 { masked 0x800000000001 with islong := true }).mw = #v[0x80, 0x00, 0x00, 0x00, 0x00, 0x01] := by decide
theorem test_maskDec_short : (sent 0x28000000 { State.reset with mw := #v[0x00, 0x01, 0xFF, 0xFF, 0xFF, 0xFF] }).mask = 0x000000008000 := by decide
theorem test_maskDec_long : (sent 0x28000000 { State.reset with mw := #v[0x00, 0x00, 0x00, 0x00, 0x00, 0x01], islong := true }).mask = 0x800000000000 := by decide
theorem test_snOffImm_wraps : (sent 0x3000FFF9 { State.reset with snbase := 65530 }).off = 65535 := by decide
theorem test_snOffImm_edge : (sent 0x3000000A { State.reset with snbase := 65530, flagInwin := true }).flagInwin = false := by decide
theorem test_snOffRtp : regWord (sent 0x30800000 { State.reset with snbase := 100, rtpSn := 103 }) 0x0004 = 0x00000020 := by decide
theorem test_snAddImm_wraps : (sent 0x31000001 { State.reset with snbase := 65535, res := 9 }).res = 0 := by decide
theorem test_snAddOff : (sent 0x31800000 { State.reset with snbase := 65530, off := 26 }).res = 20 := by decide
theorem test_snSetbaseImm : regWord (sent 0x32000064 State.reset) 0x001C = 0x00010064 := by decide
theorem test_snSetbaseRtp : (sent 0x32800000 { State.reset with rtpSn := 0x1234 }).snbase = 0x1234 := by decide
theorem test_rtpParse_fields : regWord (sent 0x40000000 (loaded (hdr 0xE0 0x65) fresh)) 0x003C = 0x0065E080 := by decide
theorem test_rtpParse_isfec : regWord (sent 0x40010000 (loaded (hdr 0x78 0x65) fresh)) 0x0004 = 0x00000040 := by decide

/-- The one-byte payload group of 95 2.7, folded and ready for FEC_ASM. -/
def groupOne : State := sent 0x26800000 (sent 0x21000000 (sent 0x13010000 (loaded (hdr 0x60 0x07 ++ [0x07]) fresh)))

/-- The three-byte payload group of 95 2.7. -/
def groupThree : State :=
  sent 0x26800000 (sent 0x21000000 (sent 0x13010000 (loaded (hdr 0x60 0x07 ++ [0x07, 0x07, 0x07]) fresh)))

theorem test_fecAsm_padded : outBytes 28 (sent 0x50000000 groupOne) =
    [0xA0, 0xF8, 0x00, 0x00, 0x12, 0x34, 0x56, 0x78, 0xDE, 0xAD, 0xBE, 0xEF, 0x00, 0x60, 0x00, 0x07,
     0x12, 0x34, 0x56, 0x78, 0x00, 0x01, 0x00, 0x01, 0x80, 0x00, 0x07, 0x01] := by decide
theorem test_fecAsm_zeroGroup : sent 0x50000000 fresh =
    { fresh with err := 4, flagSticky := true, errcmd := 0x50000000 } := by decide

/-- The padding styles and flag places that R6 does not select (95 2.7; R63, R67): SINGLE appends one byte, FEC_BYTE12
sets the flag in byte 12 and leaves byte 0. -/
theorem test_fecPacket_single : (fecPacket .single .rtpByte0 groupThree).length = 30 ∧
    (fecPacket .single .rtpByte0 groupThree).drop 26 = [0x07, 0x07, 0x07, 0x03] := by decide
theorem test_fecPacket_fecByte12 : (fecPacket .align .fecByte12 groupThree).take 13 =
    [0x80, 0xF8, 0x00, 0x00, 0x12, 0x34, 0x56, 0x78, 0xDE, 0xAD, 0xBE, 0xEF, 0x20] := by decide

theorem test_fecParse_hacc : (sent 0x51000000 (loaded packetF fresh)).hacc =
    #v[0x00, 0x60, 0x00, 0x00, 0x12, 0x34, 0x56, 0x78, 0x00, 0x02] := by decide
theorem test_fecParse_malformed : regWord (sent 0x51000000 (loaded (packetF.take 25) fresh)) 0x0004 =
    0x00008005 := by decide
theorem test_recover_packet : outBytes 14 (sent 0x52000000 (sent 0x51000000 (loaded packetF fresh))) =
    hdr 0x60 0x64 ++ [0xAA, 0xBB] := by decide
theorem test_recover_two_missing : regWord (sent 0x52000000 (masked 3)) 0x0004 = 0x00008006 := by decide

/-! ### The host bus and the host's side -/

/-- BUSERR and a 0 answer for a 16-bit read (R44). -/
theorem test_illegal_read : done (.read .b16 0x1000) { State.reset with busData := 7 } =
    { State.reset with flagBuserr := true } := by decide
/-- A word write to IN is big-endian (R42). -/
theorem test_word_write : (done (.write .b32 0x15BC 0x11223344) State.reset).mem =
    [(0x15BC, 0x11), (0x15BD, 0x22), (0x15BE, 0x33), (0x15BF, 0x44)] := by decide
/-- The host's own checks of ENCODE come before any access (R100), and the mapping of codes (R102). -/
theorem test_encode_zero_groups : encodeProc [hdr 0x60 0x64] 2 fresh = some (.error .invalidArgument, fresh) := by
  decide
theorem test_decode_error_kinds : decodeError 6 = .unrecoverable ∧ decodeError 5 = .invalidArgument := by
  decide
/-- GROUP_BEGIN's expansion (R59). -/
theorem test_groupBegin : Pseudo.groupBegin.expand.map encode = [0x10000000, 0x20000000] := by decide
/-- Assembly errors (R58). -/
theorem test_assembly_errors : assemble ⟨"CTX_NEW", [.imm 128]⟩ = none ∧
    assemble ⟨"MASK_SET", [.imm 64]⟩ = none ∧ assemble ⟨"SN_ADD", [.rtp]⟩ = none := by decide

/-! ### The statements' hypotheses are met (one witness per statement and clause, at boundary values) -/

theorem witness_DecodeEncodeAgree : WellFormed (.maskTestImm 63) ∧ WellFormed (.maskIslongImm 127 65535) := by
  decide
theorem witness_EncodeDecodeAgree : decode 0x267FFFFF = .ok (.maskIslongImm 127 65535) := by rfl
theorem witness_LegalWordsSpellOneTableRow : decode 0x017F0000 = .ok (.ctxNew 127) ∧
    formRow (.ctxNew 127) ∈ opcodeTable ∧ (formRow (.ctxNew 127)).spelledBy 0x017F0000 = true :=
  ⟨rfl, by decide, by decide⟩
theorem witness_AssembleAgreesWithSyntax : WellFormed (.ctxNew 127) ∧
    assemble ⟨"SN_ADD", [.imm 65535]⟩ = some (.snAddImm 65535) := by decide
theorem witness_StepRunsTheDecodedCommand :
    ({ State.reset with host := [.write .b32 0x0000 0x21030000] } : State).host =
      [.write .b32 0x0000 0x21030000] ∧ decode 0x21030000 = .ok (.maskSetImm 3) := ⟨rfl, rfl⟩
theorem witness_IllegalWordRaisesIllegalCmd :
    ({ State.reset with host := [.write .b32 0x0000 0x21400000] } : State).host =
      [.write .b32 0x0000 0x21400000] ∧ (∀ r ∈ opcodeTable, r.spelledBy 0x21400000 = false) :=
  ⟨rfl, by decide⟩
theorem witness_FailureWritesOnlyTheErrorRecord :
    (∃ t, exec .fecAsm State.reset = .next t ∧ t.err ≠ 0) ∧
      (∃ t, exec .maskClr State.reset = .next t ∧ t.err = 0 ∧ Instr.maskClr ≠ .statClr) :=
  ⟨⟨_, rfl, by decide⟩, ⟨_, rfl, by decide, by decide⟩⟩
theorem witness_CommandsRaiseOnlyTheirCodes : ∃ t, exec .recover (masked 3) = .next t := ⟨_, rfl⟩
theorem witness_FlagsReadByNoneWrittenByTheirOwn :
    (∃ t, exec .maskCnt State.reset = .next t ∧
      Instr.maskCnt ≠ .maskFirst ∧ Instr.maskCnt ≠ .recover ∧ (∀ sn, Instr.maskCnt ≠ .snOffImm sn) ∧
      Instr.maskCnt ≠ .snOffRtp ∧ (∀ lim, Instr.maskCnt ≠ .rtpParse lim) ∧
      (∀ ofs, Instr.maskCnt ≠ .maskTestImm ofs) ∧ Instr.maskCnt ≠ .maskTestOff) ∧
    (∃ t, exec .maskFirst State.reset = .next t ∧ t.err = 0) ∧
    (∃ t, exec (.snOffImm 65535) State.reset = .next t ∧ t.err = 0) ∧
    (∃ t, exec (.rtpParse .enc) (ofLen 1442) = .next t ∧ t.err = 0) ∧
    (∃ t, exec (.maskTestImm 47) State.reset = .next t ∧ t.err = 0) :=
  ⟨⟨_, rfl, nofun, nofun, nofun, nofun, nofun, nofun, nofun⟩, ⟨_, rfl, by decide⟩,
    ⟨_, rfl, by decide⟩, ⟨_, rfl, by decide⟩, ⟨_, rfl, by decide⟩⟩
theorem witness_StatusWordLayout : (0 : Nat) < 32 ∧ (31 : Nat) < 32 := by decide

/-- The byte of PACC at an offset after reset. -/
theorem paccByte_reset (j : Nat) (h : j < 1460) : paccByte State.reset j = 0 := by
  have hp : inPacc (Config.paccBase + j) = true := by
    have e1 : Config.paccBase = 0x3000 := rfl
    have e2 : Config.paccBytes = 1460 := rfl
    simp only [inPacc, Bool.and_eq_true, decide_eq_true_eq]
    omega
  simp [paccByte, byteAt, memRead, State.reset, memLookup, unlisted, hp]

theorem witness_EveryStepKeepsBlockInv : ∃ s t, BlockInv s ∧ s.host ≠ [] ∧ step s = .next t :=
  ⟨{ State.reset with host := [.write .b32 0x0000 0x10000000] }, _,
    ⟨rfl, (fun _ h => nomatch h), by decide, by decide, by decide, fun j _ h => paccByte_reset j h,
      by decide⟩, by decide, rfl⟩
theorem witness_EveryStepKeepsErrorRecordInv : ∃ s t, ErrorRecordInv s ∧ s.host ≠ [] ∧ step s = .next t :=
  ⟨{ State.reset with host := [.write .b32 0x0000 0x50000000] }, _, ⟨by decide, by decide, by decide⟩,
    by decide, rfl⟩
theorem witness_IllegalAccessSetsOnlyBuserr :
    (∃ s : State, s.host = [.read .b32 0x0064] ∧ ¬ LegalRead .b32 0x0064) ∧
    (∃ s : State, s.host = [.read .b16 0x1000] ∧ ¬ LegalRead .b16 0x1000) ∧
    (∃ s : State, s.host = [.write .b8 0x15C0 1] ∧ ¬ LegalWrite .b8 0x15C0) ∧
    (∃ s : State, s.host = [.write .b32 0x0004 1] ∧ ¬ LegalWrite .b32 0x0004) ∧
    (∃ s t : State, step s = .next t ∧ s.flagBuserr = true ∧ t.flagBuserr = false) := by
  refine ⟨⟨{ State.reset with host := [.read .b32 0x0064] }, rfl, ?_⟩,
    ⟨{ State.reset with host := [.read .b16 0x1000] }, rfl, ?_⟩,
    ⟨{ State.reset with host := [.write .b8 0x15C0 1] }, rfl, ?_⟩,
    ⟨{ State.reset with host := [.write .b32 0x0004 1] }, rfl, ?_⟩,
    ⟨{ State.reset with flagBuserr := true, host := [.write .b32 0x0000 0x02000000] }, _, rfl, rfl,
      rfl⟩⟩ <;>
    simp only [LegalRead, LegalWrite, BufferAddr] <;> decide
theorem witness_LegalReadsHaveNoSideEffect :
    (∃ s : State, s.host = [.read .b32 0x0060, .read .b32 0x0060] ∧ LegalRead .b32 0x0060) ∧
    (∃ s : State, s.host = [.read .b8 0x35B3, .read .b8 0x35B3] ∧ LegalRead .b8 0x35B3) := by
  refine ⟨⟨{ State.reset with host := [.read .b32 0x0060, .read .b32 0x0060] }, rfl, ?_⟩,
    ⟨{ State.reset with host := [.read .b8 0x35B3, .read .b8 0x35B3] }, rfl, ?_⟩⟩ <;>
    simp only [LegalRead, BufferAddr] <;> decide
theorem witness_WordAccessIsFourByteAccesses :
    (BufferAddr (0x15BC#16).toNat ∧ (0x15BC#16).toNat % 4 = 0 ∧ (0x15BC#16).toNat ≤ 0x15BF) ∧
    (BufferAddr (0x35B3#16).toNat) ∧ (BufferAddr (0x35B0#16).toNat ∧ (0x35B0#16).toNat % 4 = 0) := by
  simp only [BufferAddr]; decide
theorem witness_HostByteWriteReadsBack :
    (∃ s : State, s.host = [.write .b8 0x15BF 0x1FF] ∧ 0x1000 ≤ (0x15BF#16).toNat ∧
      (0x15BF#16).toNat ≤ 0x15BF) ∧
    (∃ s t : State, s.host = [.write .b32 0x15BC 5] ∧ step s = .next t ∧
      byteAt t 0x15BF ≠ byteAt s 0x15BF) :=
  ⟨⟨{ State.reset with host := [.write .b8 0x15BF 0x1FF] }, rfl, by decide, by decide⟩,
    ⟨{ State.reset with mem := [(0x15BF, 4)], host := [.write .b32 0x15BC 5] }, _, rfl, rfl,
      by decide⟩⟩
theorem witness_HostRegisterWritesReadBack :
    (∃ s : State, s.host = [.write .b32 0x0010 0xFFFF05A2]) ∧
    (∃ s : State, s.host = [.write .b32 0x002C 0xB0000000]) ∧
    (∃ s : State, s.host = [.write .b32 0x0030 0x00010203]) :=
  ⟨⟨{ State.reset with host := [.write .b32 0x0010 0xFFFF05A2] }, rfl⟩,
    ⟨{ State.reset with host := [.write .b32 0x002C 0xB0000000] }, rfl⟩,
    ⟨{ State.reset with host := [.write .b32 0x0030 0x00010203] }, rfl⟩⟩
theorem witness_RegisterWindowContents :
    (∃ s : State, s.host = [.read .b32 0x0000] ∧ (0x0000#16).toNat % 4 = 0 ∧ (0x0000#16).toNat ≤ 0x0063) ∧
    (∃ s : State, s.host = [.read .b32 0x0060] ∧ (0x0060#16).toNat % 4 = 0 ∧ (0x0060#16).toNat ≤ 0x0063) :=
  ⟨⟨{ State.reset with host := [.read .b32 0x0000] }, rfl, by decide, by decide⟩,
    ⟨{ State.reset with host := [.read .b32 0x0060] }, rfl, by decide, by decide⟩⟩
theorem witness_ResetEventClearsEveryRegister :
    ∃ s : State, s.host = [.reset, .read .b32 0x0004] ∧ (0x0063 : Nat) ≤ 0x0063 ∧ (1459 : Nat) < 1460 :=
  ⟨{ State.reset with host := [.reset, .read .b32 0x0004], fcnt := 9 }, rfl, by decide, by decide⟩
theorem witness_ContextWrittenOnlyByItsCommands :
    (∃ s t : State, step s = .next t ∧ t.fecPt ≠ s.fecPt) ∧
    (∃ s t : State, step s = .next t ∧ t.fecSeq ≠ s.fecSeq) :=
  ⟨⟨{ State.reset with host := [.write .b32 0x0000 0x01780000] }, _, rfl, by decide⟩,
    ⟨{ fresh with fecSeq := 65535, fcnt := 1, host := [.write .b32 0x0000 0x50000000] }, _, rfl,
      by decide⟩⟩
theorem witness_CommandsNeverWriteIn : ∃ t, exec (.accFold .dec) (ofLen 1472) = .next t ∧
    (0 : Nat) < 1472 ∧ (1471 : Nat) < 1472 := ⟨_, rfl, by decide, by decide⟩
theorem witness_CommandsReadOnlyThePacket : ∃ s t : State, ∃ m : Memory, m ≠ s.mem ∧
    (∀ a, ¬ (0x1000 + s.inLen.toNat ≤ a ∧ a ≤ 0x15BF) → memRead s.epoch m a = byteAt s a) ∧
    exec (.accFold .dec) s = .next t := by
  refine ⟨loaded (hdr 0x60 0x64) State.reset, _,
    memWrite (loaded (hdr 0x60 0x64) State.reset).mem 0x100C 9, by decide, ?_, rfl⟩
  intro a ha
  have ne : a ≠ 0x100C := by
    rintro rfl
    exact ha (by decide)
  have h : ∀ m : Memory, memLookup m 0x100C = none → memLookup (memInsert m 0x100C 9) a = memLookup m a := by
    intro m
    induction m with
    | nil => intro _; simp [memInsert, memLookup, ne.symm]
    | cons c m ih =>
      obtain ⟨k, v⟩ := c
      intro hm
      simp only [memLookup] at hm
      split at hm
      · cases hm
      · next hk =>
        simp only [memInsert, memLookup]
        split
        · simp [memLookup, ne.symm]
        · rw [if_neg (fun e => hk e.symm)]
          simp only [memLookup, ih hm]
  rw [byteAt, memRead, memRead, memWrite, if_neg (by decide), h _ (by decide)]
theorem witness_ControlCommandsResult : WellFormed (.ctxNew 127) := by decide
theorem witness_AccClrEmptiesTheAccumulator : (9 : Nat) < 10 ∧ (1459 : Nat) < 1460 ∧
    ¬ (0x3000 ≤ 0x2FFF ∧ 0x2FFF ≤ 0x35B3) ∧ ¬ (0x3000 ≤ 0x35B4 ∧ 0x35B4 ≤ 0x35B3) := by decide
theorem witness_AccFoldHdrResult : PacketOk .enc (ofLen 1442) ∧ ¬ PacketOk .enc (ofLen 1443) :=
  ⟨⟨by decide, by decide⟩, fun h => absurd h.2 (by decide)⟩
theorem witness_AccFoldPayResult : PacketOk .dec (ofLen 1472) ∧ 1459 < (ofLen 1472).inLen.toNat - 12 ∧
    ¬ PacketOk .dec (ofLen 1473) :=
  ⟨⟨by decide, by decide⟩, by decide, fun h => absurd h.2 (by decide)⟩
theorem witness_AccFoldIsBothFolds : PacketOk .dec (ofLen 1472) ∧ ¬ PacketOk .dec (ofLen 11) :=
  ⟨⟨by decide, by decide⟩, fun h => absurd h.1 (by decide)⟩
theorem witness_FoldingTwiceCancels : PacketOk .enc (ofLen 12) := ⟨by decide, by decide⟩
theorem witness_RtpParseResult : PacketOk .dec (ofLen 12) ∧ ¬ PacketOk .enc (ofLen 1443) :=
  ⟨⟨by decide, by decide⟩, fun h => absurd h.2 (by decide)⟩
theorem witness_LengthCheckRaisesInvalidLen : ¬ PacketOk .dec (ofLen 11) ∧ ¬ PacketOk .dec (ofLen 1473) ∧
    ¬ PacketOk .enc (ofLen 1443) ∧ PacketOk .enc (ofLen 1442) :=
  ⟨fun h => absurd h.1 (by decide), fun h => absurd h.2 (by decide), fun h => absurd h.2 (by decide),
    by decide, by decide⟩
theorem witness_MaskSetResult :
    (Instr.maskSetImm 47 = .maskSetImm ((47#16).setWidth 8) ∧ (47#16).toNat < 64 ∧ (47#16).toNat < 48) ∧
    (Instr.maskSetImm 48 = .maskSetImm ((48#16).setWidth 8) ∧ (48#16).toNat < 64 ∧ 48 ≤ (48#16).toNat) ∧
    (Instr.maskSetOff = .maskSetOff ∧ ({ State.reset with off := 65535 } : State).off = 65535) := by decide
theorem witness_MaskClrbResult :
    (Instr.maskClrbImm 0 = .maskClrbImm ((0#16).setWidth 8) ∧ (0#16).toNat < 64 ∧ (0#16).toNat < 48) ∧
    (Instr.maskClrbImm 63 = .maskClrbImm ((63#16).setWidth 8) ∧ (63#16).toNat < 64 ∧ 48 ≤ (63#16).toNat) ∧
    (Instr.maskClrbOff = .maskClrbOff ∧ State.reset.off = 0) := by decide
theorem witness_MaskTestResult :
    (Instr.maskTestImm 47 = .maskTestImm ((47#16).setWidth 8) ∧ (47#16).toNat < 64 ∧ (47#16).toNat < 48) ∧
    (Instr.maskTestImm 48 = .maskTestImm ((48#16).setWidth 8) ∧ (48#16).toNat < 64 ∧ 48 ≤ (48#16).toNat) ∧
    (Instr.maskTestOff = .maskTestOff ∧ ({ State.reset with off := 47 } : State).off = 47) := by decide
theorem witness_OffsetsFrom48RaiseOffsetRange : ((48 : Byte).toNat < 64 ∧ 48 ≤ (48 : Byte).toNat) ∧
    ((63 : Byte).toNat < 64 ∧ 48 ≤ (63 : Byte).toNat) ∧ ((47 : Byte).toNat < 64 ∧ (47 : Byte).toNat < 48) ∧
    48 ≤ ({ State.reset with off := 48 } : State).off.toNat ∧
    ({ State.reset with off := 47 } : State).off.toNat < 48 := by decide
theorem witness_MaskClearCountFirstResult : State.reset.mask = 0 ∧ (masked 0x800000000000).mask ≠ 0 := by
  decide
theorem witness_MaskIslongResult : WellFormed (.maskIslongImm 127 65535) := by decide
theorem witness_MaskEncResult :
    (MaskFits (masked 0x8000) ∧ (masked 0x8000).islong = false) ∧
    (MaskFits { masked 0x800000000000 with islong := true } ∧
      ({ masked 0x800000000000 with islong := true } : State).islong = true) ∧
    ¬ MaskFits (masked 0x10000) := by
  refine ⟨⟨fun _ i hi => ?_, rfl⟩, ⟨fun h => (by cases h), rfl⟩, fun h => ?_⟩
  · by_cases h : i < 48
    · show (0x8000 : Mask).getLsbD i = false
      interval_cases i <;> rfl
    · exact BitVec.getLsbD_of_ge _ _ (by omega)
  · exact absurd (h rfl 16 (by decide)) (by decide)
theorem witness_MaskDecResult : State.reset.islong = false ∧
    ({ State.reset with islong := true } : State).islong = true := by decide
theorem witness_MaskDecThenEncRestoresMw : State.reset.islong = false ∧
    ({ State.reset with islong := true } : State).islong = true := by decide
theorem witness_SnOffResult : Instr.snOffImm 65529 = .snOffImm 65529 ∧
    (Instr.snOffRtp = .snOffRtp ∧ ({ State.reset with rtpSn := 65529 } : State).rtpSn = 65529) := by decide
theorem witness_SnAddResult : Instr.snAddImm 65535 = .snAddImm 65535 ∧
    (Instr.snAddOff = .snAddOff ∧ ({ State.reset with off := 65535 } : State).off = 65535) := by decide
theorem witness_SnSetbaseResult : Instr.snSetbaseImm 65535 = .snSetbaseImm 65535 ∧
    (Instr.snSetbaseRtp = .snSetbaseRtp ∧ ({ State.reset with rtpSn := 65535 } : State).rtpSn = 65535) ∧
    ∃ u, exec (.accFoldHdr .dec) { ofLen 12 with snbase := 65535, snbValid := true } = .next u :=
  ⟨rfl, ⟨rfl, rfl⟩, _, rfl⟩

/-- A state with a folded packet and a value of PMAX. -/
def foldedTo (n : Half) : State := { fresh with fcnt := 1, pmax := n }

theorem maskFits_zero {s : State} (h : s.mask = 0) : MaskFits s := fun _ i _ => by simp [h]

theorem witness_FecAsmResult :
    ((foldedTo 1446).fcnt ≠ 0 ∧ MaskFits (foldedTo 1446) ∧
      asmL0 (foldedTo 1446) + padTo4 (asmL0 (foldedTo 1446)) ≤ 1472 ∧ (foldedTo 1446).islong = false ∧
      padTo4 (asmL0 (foldedTo 1446)) = 0) ∧
    (MaskFits { foldedTo 1441 with islong := true } ∧
      asmL0 { foldedTo 1441 with islong := true } + padTo4 (asmL0 { foldedTo 1441 with islong := true }) ≤ 1472 ∧
      padTo4 (asmL0 { foldedTo 1441 with islong := true }) ≠ 0) :=
  ⟨⟨by decide, maskFits_zero rfl, by decide, rfl, by decide⟩, maskFits_zero rfl, by decide, by decide⟩
theorem witness_FecAsmErrorsInOrder : State.reset.fcnt = 0 ∧
    (({ foldedTo 0 with mask := 0x10000 } : State).fcnt ≠ 0 ∧ ¬ MaskFits { foldedTo 0 with mask := 0x10000 }) ∧
    ((foldedTo 1447).fcnt ≠ 0 ∧ MaskFits (foldedTo 1447) ∧
      1472 < asmL0 (foldedTo 1447) + padTo4 (asmL0 (foldedTo 1447))) :=
  ⟨rfl, ⟨by decide, fun h => absurd (h rfl 16 (by decide)) (by decide)⟩, by decide, maskFits_zero rfl,
    by decide⟩
theorem witness_FecPacketSizes : (State.reset.islong = false ∧ State.reset.pmax = 0) ∧
    (({ foldedTo 1430 with islong := true } : State).islong = true ∧
      ({ foldedTo 1430 with islong := true } : State).pmax.toNat = 1430) := by decide

/-- F with its mask, its protection length and its byte 12 replaced, for the clauses of FEC_PARSE. -/
def packetG (b12 p0 p1 : Byte) (rest : List Byte) : List Byte :=
  packetF.take 12 ++ [b12] ++ (packetF.drop 13).take 9 ++ [p0, p1] ++ rest

theorem witness_FecParseResult :
    (∃ s : State, s.inLen.toNat ≤ 1472 ∧ 26 ≤ s.inLen.toNat ∧ false = (inByte s 12).getLsbD 6 ∧
      0 = 256 * (inByte s 22).toNat + (inByte s 23).toNat ∧ 24 + mlOf false + 0 ≤ s.inLen.toNat) ∧
    (∃ s : State, s.inLen.toNat ≤ 1472 ∧ 26 ≤ s.inLen.toNat ∧ true = (inByte s 12).getLsbD 6 ∧
      1442 = 256 * (inByte s 22).toNat + (inByte s 23).toNat ∧ 24 + mlOf true + 1442 ≤ s.inLen.toNat) :=
  ⟨⟨loaded (packetG 0x00 0 0 [0x80, 0x00]) fresh, by decide⟩,
    ⟨{ loaded (packetG 0x40 0x05 0xA2 []) fresh with inLen := 1472 }, by decide⟩⟩
theorem witness_FecParseErrorsInOrder :
    ((ofLen 11).inLen.toNat < 12) ∧ (1472 < (ofLen 1473).inLen.toNat) ∧
    (12 ≤ (ofLen 25).inLen.toNat ∧ (ofLen 25).inLen.toNat ≤ 1472 ∧ (ofLen 25).inLen.toNat < 26) ∧
    (∃ s : State, 12 ≤ s.inLen.toNat ∧ s.inLen.toNat ≤ 1472 ∧
      s.inLen.toNat < 24 + mlOf ((inByte s 12).getLsbD 6)) ∧
    (∃ s : State, 12 ≤ s.inLen.toNat ∧ s.inLen.toNat ≤ 1472 ∧
      s.inLen.toNat < 24 + mlOf ((inByte s 12).getLsbD 6)
        + (256 * (inByte s 22).toNat + (inByte s 23).toNat)) :=
  ⟨by decide, by decide, by decide,
    ⟨{ loaded (packetG 0x40 0 0 []) fresh with inLen := 29 }, by decide⟩,
    ⟨{ loaded (packetG 0x00 0 1 []) fresh with inLen := 26 }, by decide⟩⟩

/-- OUT of a state placed in IN of a fresh instance. -/
def received (t : State) : State :=
  { loaded (outBytes 28 t) fresh with inLen := t.outLen }

theorem witness_ParseOfAssembledPacket : ∃ s t u : State, exec .fecAsm s = .next t ∧ t.err = 0 ∧
    u.inLen = t.outLen ∧ (∀ k, k < t.outLen.toNat → inByte u k = outByte t k) :=
  ⟨groupOne, sent 0x50000000 groupOne, received (sent 0x50000000 groupOne), by rfl, by decide, rfl,
    by decide⟩
theorem witness_RecoverWritesTheMissingPacket : ∃ s : State, ∃ i bl : Nat, i < 48 ∧
    (∀ k, s.mask.getLsbD k = decide (k = i)) ∧ bl = 256 * s.hacc[8].toNat + s.hacc[9].toNat ∧
    bl ≤ s.prot.toNat := by
  refine ⟨{ masked 0x800000000000 with hacc := #v[0, 0, 0, 0, 0, 0, 0, 0, 5, 166], prot := 1446 }, 47, 1446,
    by decide, fun k => ?_, by decide, by decide⟩
  by_cases h : k < 48
  · show (0x800000000000 : Mask).getLsbD k = _
    interval_cases k <;> rfl
  · rw [BitVec.getLsbD_of_ge _ _ (by omega), decide_eq_false (by omega)]
theorem witness_RecoverOtherOutcomes : State.reset.mask = 0 ∧
    ((0 : Nat) ≠ 47 ∧ (masked 0x800000000001).mask.getLsbD 0 = true ∧
      (masked 0x800000000001).mask.getLsbD 47 = true) ∧
    (∃ s : State, (∀ k, s.mask.getLsbD k = decide (k = 0)) ∧
      s.prot.toNat < 256 * s.hacc[8].toNat + s.hacc[9].toNat) := by
  refine ⟨rfl, by decide, { masked 1 with hacc := #v[0, 0, 0, 0, 0, 0, 0, 0, 0, 3], prot := 2 }, fun k => ?_,
    by decide⟩
  show (1 : Mask).getLsbD k = _
  by_cases h : k < 48
  · interval_cases k <;> rfl
  · rw [BitVec.getLsbD_of_ge _ _ (by omega), decide_eq_false (by omega)]

end Sys2Proof.Tests
end

section
/-! PROOFS. The registers of 10_state.md: the state after reset, the STATUS word, the storing register writes, the condition flags and the FEC context. -/

namespace Sys2Proof.Machine

/-! ### The state after reset (R34) -/

/-- With no byte listed, as after a reset, PACC reads 0 (R34). -/
theorem paccByte_of_mem_nil {s : State} (h : s.mem = []) {j : Nat} (hj : j < 1460) :
    paccByte s j = 0 := by
  have e : Config.paccBase = 0x3000 := rfl
  have hp : inPacc (Config.paccBase + j) = true := (inPacc_iff _).2 (by omega)
  have hr := memRead_memClearPacc s.epoch [] (Config.paccBase + j)
  rw [if_pos hp] at hr
  rw [paccByte, byteAt, h]
  exact hr

/-- Settles O14: no byte is listed and every length is 0 after reset. -/
theorem blockInvAtReset : Obligations.BlockInvAtReset where
  memWf := rfl
  memInside := nofun
  pmaxFits := by decide
  protFits := by decide
  outLenFits := by decide
  paccAbovePmax := fun _ _ hj => paccByte_of_mem_nil rfl hj
  foldedHasBase := fun h => absurd rfl h

/-- Settles O16: the error record is all zero after reset. -/
theorem errorRecordInvAtReset : Obligations.ErrorRecordInvAtReset where
  codeAssigned := by decide
  errorIsSticky := fun h => absurd rfl h
  noErrorNoCommand := fun _ => rfl

/-! ### The STATUS word (R27) -/

/-- A 1-bit field holds its flag in bit 0. -/
theorem getLsbD_flag (f : Bool) (k : Nat) : (BitVec.ofBool f).getLsbD k = (decide (k = 0) && f) := by
  cases f <;> cases k <;> simp

/-- Settles O12: each bit of STATUS is looked up in the field that covers it. -/
theorem statusWordLayout : Obligations.StatusWordLayout := by
  intro s k hk
  show (statusWord s).getLsbD k = _
  simp only [statusWord, BitVec.getLsbD_append, getLsbD_flag]
  interval_cases k <;> simp

/-! ### The storing register writes (R23, R31) -/

theorem busStore_inLen (d : Word) (s : State) : busStore .b32 0x0010 d s = storeInLen d s := rfl

theorem busStore_mwLo (d : Word) (s : State) : busStore .b32 0x002C d s = storeMwLo d s := rfl

theorem busStore_mwHi (d : Word) (s : State) : busStore .b32 0x0030 d s = storeMwHi d s := rfl

/-- IN_LEN keeps bits 15:0 of the written word (R31). -/
theorem storeInLen_inLen_toNat (d : Word) (s : State) :
    (storeInLen d s).inLen.toNat = d.toNat % 65536 := by
  simp [BitVec.extractLsb'_toNat]

/-- The host word IN_LEN is the length in bits 15:0 (R36). -/
theorem regWord_inLen_toNat (s : State) : (regWord s 0x0010).toNat = s.inLen.toNat := by
  show (s.inLen.setWidth 32).toNat = _
  have := s.inLen.isLt
  rw [BitVec.toNat_setWidth, Nat.mod_eq_of_lt (by omega)]

/-- MW_LO reads back the written word (R23). -/
theorem regWord_storeMwLo (d : Word) (s : State) : regWord (storeMwLo d s) 0x002C = d :=
  be32_toBE32 d

/-- MW_HI reads back bits 31:16 of the written word, bits 15:0 being 0 (R23). -/
theorem regWord_storeMwHi_toNat (d : Word) (s : State) :
    (regWord (storeMwHi d s) 0x0030).toNat = d.toNat / 65536 * 65536 := by
  show (be32 (d.extractLsb' 24 8) (d.extractLsb' 16 8) 0 0).toNat = _
  rw [be32_toNat]
  have hz : (0 : Byte).toNat = 0 := rfl
  have hd := d.isLt
  simp only [BitVec.extractLsb'_toNat, Nat.shiftRight_eq_div_pow, hz]
  omega

/-- Settles O21: the step is the store of its register, whose fields tell the rest. -/
theorem hostRegisterWritesReadBack : Obligations.HostRegisterWritesReadBack := by
  intro s rest d
  refine ⟨fun h => ⟨storeInLen d { s with host := rest }, ?_, ?_, ?_, rfl⟩,
    fun h => ⟨storeMwLo d { s with host := rest }, ?_, regWord_storeMwLo d _, rfl, rfl⟩,
    fun h => ⟨storeMwHi d { s with host := rest }, ?_, regWord_storeMwHi_toNat d _, rfl, rfl⟩⟩
  · exact step_store h (by decide)
  · rw [regWord_inLen_toNat, storeInLen_inLen_toNat]
  · exact storeInLen_inLen_toNat d _
  · exact step_store h (by decide)
  · exact step_store h (by decide)

/-! ### The condition flags (R27, R28) -/

section WithOtherFlags

variable {i : Instr} (n w f b : Bool) (u : State)

theorem withOtherFlags_flagNone_of_writer (h : i = .maskFirst ∨ i = .recover) :
    (withOtherFlags i n w f b u).flagNone = u.flagNone := by
  obtain rfl | rfl := h <;> rfl

theorem withOtherFlags_flagInwin_of_writer (h : (∃ sn, i = .snOffImm sn) ∨ i = .snOffRtp) :
    (withOtherFlags i n w f b u).flagInwin = u.flagInwin := by
  obtain ⟨sn, rfl⟩ | rfl := h <;> rfl

theorem withOtherFlags_flagIsfec_of_writer (h : ∃ lim, i = .rtpParse lim) :
    (withOtherFlags i n w f b u).flagIsfec = u.flagIsfec := by
  obtain ⟨lim, rfl⟩ := h; rfl

theorem withOtherFlags_flagBit_of_writer (h : (∃ ofs, i = .maskTestImm ofs) ∨ i = .maskTestOff) :
    (withOtherFlags i n w f b u).flagBit = u.flagBit := by
  obtain ⟨ofs, rfl⟩ | rfl := h <;> rfl

theorem withOtherFlags_flagNone_of_nonwriter (h : i ≠ .maskFirst ∧ i ≠ .recover) :
    (withOtherFlags i n w f b u).flagNone = n := by
  obtain ⟨hfirst, hrecover⟩ := h
  cases i
  case maskFirst => exact absurd rfl hfirst
  case recover => exact absurd rfl hrecover
  all_goals rfl

theorem withOtherFlags_flagInwin_of_nonwriter (h : (∀ sn, i ≠ .snOffImm sn) ∧ i ≠ .snOffRtp) :
    (withOtherFlags i n w f b u).flagInwin = w := by
  obtain ⟨himm, hrtp⟩ := h
  cases i
  case snOffImm sn => exact absurd rfl (himm sn)
  case snOffRtp => exact absurd rfl hrtp
  all_goals rfl

theorem withOtherFlags_flagIsfec_of_nonwriter (h : ∀ lim, i ≠ .rtpParse lim) :
    (withOtherFlags i n w f b u).flagIsfec = f := by
  cases i
  case rtpParse lim => exact absurd rfl (h lim)
  all_goals rfl

theorem withOtherFlags_flagBit_of_nonwriter
    (h : (∀ ofs, i ≠ .maskTestImm ofs) ∧ i ≠ .maskTestOff) :
    (withOtherFlags i n w f b u).flagBit = b := by
  obtain ⟨himm, hoff⟩ := h
  cases i
  case maskTestImm ofs => exact absurd rfl (himm ofs)
  case maskTestOff => exact absurd rfl hoff
  all_goals rfl

end WithOtherFlags

/-- A successful command leaves the flags that are not its own: `body_withFlags` at the flags the state already
has. -/
theorem body_ok_otherFlags {i : Instr} {s u : State} (h : body i s = .ok u) :
    withOtherFlags i s.flagNone s.flagInwin s.flagIsfec s.flagBit u = u := by
  have hw := body_withFlags i s s.flagNone s.flagInwin s.flagIsfec s.flagBit
  rw [show withFlags s.flagNone s.flagInwin s.flagIsfec s.flagBit s = s from rfl, h] at hw
  exact (Except.ok.inj hw).symm

/-- A command changes none of the flags that R27 does not list for it. -/
theorem exec_keeps_otherFlags {i : Instr} {s t : State} (h : exec i s = .next t) :
    (i ≠ .maskFirst ∧ i ≠ .recover → t.flagNone = s.flagNone) ∧
    ((∀ sn, i ≠ .snOffImm sn) ∧ i ≠ .snOffRtp → t.flagInwin = s.flagInwin) ∧
    ((∀ lim, i ≠ .rtpParse lim) → t.flagIsfec = s.flagIsfec) ∧
    ((∀ ofs, i ≠ .maskTestImm ofs) ∧ i ≠ .maskTestOff → t.flagBit = s.flagBit) := by
  obtain ⟨u, hb, rfl⟩ | ⟨c, -, rfl⟩ := exec_cases h
  · simp only [finish_flagNone, finish_flagInwin, finish_flagIsfec, finish_flagBit]
    rw [← body_ok_otherFlags hb]
    exact ⟨withOtherFlags_flagNone_of_nonwriter _ _ _ _ u,
      withOtherFlags_flagInwin_of_nonwriter _ _ _ _ u,
      withOtherFlags_flagIsfec_of_nonwriter _ _ _ _ u,
      withOtherFlags_flagBit_of_nonwriter _ _ _ _ u⟩
  · exact ⟨fun _ => rfl, fun _ => rfl, fun _ => rfl, fun _ => rfl⟩

/-- Settles O11: a command from other flags makes the same changes (`body_withFlags`), on success and on failure. -/
theorem flagsReadByNoneWrittenByTheirOwn : Obligations.FlagsReadByNoneWrittenByTheirOwn := by
  refine ⟨fun i s t h => exec_keeps_otherFlags h, fun i s t n w f b h => ?_⟩
  have hw := body_withFlags i s n w f b
  obtain ⟨u, hb, rfl⟩ | ⟨c, hb, rfl⟩ := exec_cases h <;> rw [hb] at hw
  · exact ⟨finish (withOtherFlags i n w f b u), exec_of_body_ok hw, rfl, fun _ =>
      ⟨withOtherFlags_flagNone_of_writer n w f b u, withOtherFlags_flagInwin_of_writer n w f b u,
        withOtherFlags_flagIsfec_of_writer n w f b u, withOtherFlags_flagBit_of_writer n w f b u⟩⟩
  · exact ⟨raiseErr (encode i) c (withFlags n w f b s), exec_of_body_error hw, rfl,
      fun h0 => absurd h0 c.number_ne_zero⟩

/-! ### The FEC context (R14) -/

/-- What a successful command does to FEC_PT and FEC_SEQ: it keeps both, or it is CTX_NEW or FEC_ASM. -/
theorem body_ok_context {i : Instr} {s u : State} (h : body i s = .ok u) :
    (u.fecPt = s.fecPt ∧ u.fecSeq = s.fecSeq) ∨ (∃ pt, i = .ctxNew pt ∧ u.fecSeq = 0) ∨
      (i = .fecAsm ∧ u.fecPt = s.fecPt ∧ u.fecSeq = s.fecSeq + 1) := by
  cases i
  case ctxNew pt => cases h; exact .inr (.inl ⟨pt, rfl, rfl⟩)
  case fecAsm => obtain ⟨-, -, -, rfl⟩ := fecAssemble_eq_ok.1 h; exact .inr (.inr ⟨rfl, rfl, rfl⟩)
  all_goals left
  case accFoldHdr | accFoldPay | rtpParse =>
    obtain ⟨-, -, rfl⟩ := checkedFold_eq_ok.1 h; exact ⟨rfl, rfl⟩
  case accFold =>
    obtain ⟨-, -, rfl⟩ := (checkedFold_eq_ok (f := fun len t => foldPay len (foldHdr len t))).1 h
    exact ⟨rfl, rfl⟩
  case maskSetImm | maskSetOff => obtain ⟨-, rfl⟩ := maskSet_eq_ok.1 h; exact ⟨rfl, rfl⟩
  case maskClrbImm | maskClrbOff => obtain ⟨-, rfl⟩ := maskClrb_eq_ok.1 h; exact ⟨rfl, rfl⟩
  case maskTestImm | maskTestOff => obtain ⟨-, rfl⟩ := maskTest_eq_ok.1 h; exact ⟨rfl, rfl⟩
  case maskFirst => cases h; cases firstSet s.mask <;> exact ⟨rfl, rfl⟩
  case maskEnc => simp only [body] at h; split at h <;> cases h; exact ⟨rfl, rfl⟩
  case fecParse => obtain ⟨-, -, -, rfl⟩ := fecDisassemble_eq_ok.1 h; exact ⟨rfl, rfl⟩
  case recover =>
    obtain ⟨-, rfl⟩ | ⟨-, k, -, -, rfl⟩ := recoverMissing_eq_ok.1 h <;> exact ⟨rfl, rfl⟩
  all_goals cases h; exact ⟨rfl, rfl⟩

/-- What a command does to FEC_PT and FEC_SEQ, whether it succeeds or fails. -/
theorem exec_context {i : Instr} {s t : State} (h : exec i s = .next t) :
    (t.fecPt = s.fecPt ∧ t.fecSeq = s.fecSeq) ∨ (∃ pt, i = .ctxNew pt ∧ t.fecSeq = 0) ∨
      (i = .fecAsm ∧ t.fecPt = s.fecPt ∧ t.fecSeq = s.fecSeq + 1) := by
  obtain ⟨u, hb, rfl⟩ | ⟨c, -, rfl⟩ := exec_cases h
  · rw [finish_fecPt, finish_fecSeq]; exact body_ok_context hb
  · exact .inl ⟨rfl, rfl⟩

/-- A read leaves the context. -/
theorem busRead_context (w : Width) (a : Nat) (s : State) :
    (busRead w a s).fecPt = s.fecPt ∧ (busRead w a s).fecSeq = s.fecSeq := by
  unfold busRead; split <;> exact ⟨rfl, rfl⟩

/-- A write that is not a command leaves the context. -/
theorem busStore_context (w : Width) (a : Nat) (d : Word) (s : State) :
    (busStore w a d s).fecPt = s.fecPt ∧ (busStore w a d s).fecSeq = s.fecSeq := by
  unfold busStore
  split
  · cases w
    case b32 => dsimp only; split_ifs <;> exact ⟨rfl, rfl⟩
    all_goals exact ⟨rfl, rfl⟩
  · exact ⟨rfl, rfl⟩

/-- The host word CTX holds FEC_SEQ in bits 31:16 and FEC_PT in bits 6:0 (R36). -/
theorem regWord_ctx_toNat (s : State) :
    (regWord s 0x0018).toNat = s.fecPt.toNat + 65536 * s.fecSeq.toNat := by
  show (s.fecSeq ++ (0#9 : BitVec 9) ++ s.fecPt).toNat = _
  rw [BitVec.toNat_append, ← Nat.shiftLeft_add_eq_or_of_lt s.fecPt.isLt]
  simp only [BitVec.toNat_append, BitVec.toNat_ofNat, Nat.shiftLeft_eq, Nat.zero_mod, Nat.or_zero]
  omega

/-- Settles O24: of the events a step can serve, only a reset, CTX_NEW and FEC_ASM change the context. -/
theorem contextWrittenOnlyByItsCommands : Obligations.ContextWrittenOnlyByItsCommands := by
  refine ⟨fun s t h hne => ?_, regWord_ctx_toNat⟩
  have changed : ¬ (t.fecPt = s.fecPt ∧ t.fecSeq = s.fecSeq) := not_and_or.2 hne
  obtain ⟨-, rfl⟩ | ⟨rest, hs, -⟩ | ⟨rest, w, a, -, rfl⟩ | ⟨rest, w, a, d, -, -, rfl⟩ |
    ⟨rest, a, d, hs, ha, hc⟩ := step_cases h
  · exact absurd ⟨rfl, rfl⟩ changed
  · exact ⟨_, rest, hs, .inl rfl⟩
  · exact absurd (busRead_context w a.toNat _) changed
  · exact absurd (busStore_context w a.toNat d _) changed
  · obtain rfl : a = 0x0000 := BitVec.eq_of_toNat_eq ha
    refine ⟨_, rest, hs, .inr ⟨d, rfl, ?_⟩⟩
    obtain ⟨i, hd, hx⟩ | ⟨-, rfl⟩ := hc
    · obtain same | ⟨pt, rfl, hseq⟩ | ⟨rfl, hpt, hseq⟩ := exec_context hx
      · exact absurd same changed
      · exact .inl ⟨pt, hd, hseq⟩
      · refine .inr ⟨hd, hpt, ?_⟩
        rw [hseq]; exact BitVec.toNat_add _ _
    · exact absurd ⟨rfl, rfl⟩ changed

end Sys2Proof.Machine
end

section
/-! PROOFS. The buffers and the host bus of 20_memory.md: what a command and a bus access can do to the buffers, their
invariant over every step, the reads and writes of the bus, and which bytes of IN a command reads. -/

namespace Sys2Proof.Machine

/-! ### What a command does to the buffers -/

/-- What `BlockInv` reads of a state: the buffers with their draw, the lengths, and the accumulator's counters. -/
def blockView (s : State) : Memory × Nat × Half × Half × Half × Byte × Bool :=
  (s.mem, s.epoch, s.pmax, s.prot, s.outLen, s.fcnt, s.snbValid)

/-- How a successful command can change what `blockView` sees, with the checks that it has passed. -/
inductive BlockUpdate (s : State) : State → Prop where
  | keeps {u : State} (h : blockView u = blockView s) : BlockUpdate s u
  | setBase (sn : Half) : BlockUpdate s (snSetbase sn s)
  | clear : BlockUpdate s (accCleared s)
  | foldHeader (len : Nat) : BlockUpdate s (foldHdr len s)
  | foldPayload {len : Nat} (h : len ≤ 1472) : BlockUpdate s (foldPay len s)
  | foldBoth {len : Nat} (h : len ≤ 1472) : BlockUpdate s (foldPay len (foldHdr len s))
  | emit (h : fecPacketLen Config.padStyle s ≤ 1472) :
      BlockUpdate s (fecEmit Config.padStyle Config.padFlagLoc s)
  | load (h : 24 + maskLen (fecLongFlag s) + fecProtLen s ≤ 1472) : BlockUpdate s (fecLoad s)
  | recovered (i : Nat) (h : recoveredLen s ≤ s.prot.toNat) : BlockUpdate s (recoverEmit i s)

/-- What a successful command does to the buffers, the lengths and the accumulator's counters. -/
theorem body_ok_blockUpdate {i : Instr} {s u : State} (h : body i s = .ok u) : BlockUpdate s u := by
  cases i
  case accClr => cases h; exact .clear
  case accFoldHdr lim => obtain ⟨-, -, rfl⟩ := checkedFold_eq_ok.1 h; exact .foldHeader _
  case accFoldPay lim =>
    obtain ⟨-, hlen, rfl⟩ := checkedFold_eq_ok.1 h; exact .foldPayload (hlen.trans (limitOf_le lim))
  case accFold lim =>
    obtain ⟨-, hlen, rfl⟩ :=
      (checkedFold_eq_ok (f := fun len t => foldPay len (foldHdr len t))).1 h
    exact .foldBoth (hlen.trans (limitOf_le lim))
  case snSetbaseImm | snSetbaseRtp => cases h; exact .setBase _
  case fecAsm => obtain ⟨-, -, hlen, rfl⟩ := fecAssemble_eq_ok.1 h; exact .emit hlen
  case fecParse =>
    obtain ⟨-, hin, hlen, rfl⟩ := fecDisassemble_eq_ok.1 h; exact .load (hlen.trans hin)
  case recover =>
    obtain ⟨-, rfl⟩ | ⟨-, k, -, hlen, rfl⟩ := recoverMissing_eq_ok.1 h
    · exact .keeps rfl
    · exact .recovered k hlen
  all_goals refine .keeps ?_
  case rtpParse => obtain ⟨-, -, rfl⟩ := checkedFold_eq_ok.1 h; rfl
  case maskSetImm | maskSetOff => obtain ⟨-, rfl⟩ := maskSet_eq_ok.1 h; rfl
  case maskClrbImm | maskClrbOff => obtain ⟨-, rfl⟩ := maskClrb_eq_ok.1 h; rfl
  case maskTestImm | maskTestOff => obtain ⟨-, rfl⟩ := maskTest_eq_ok.1 h; rfl
  case maskFirst => cases h; cases firstSet s.mask <;> rfl
  case maskEnc => simp only [body] at h; split at h <;> cases h; rfl
  all_goals cases h; rfl

/-- Every byte below OUT, those of IN among them, is as before a successful command. -/
theorem BlockUpdate.byteAt_of_lt {s u : State} (h : BlockUpdate s u) {a : Nat} (ha : a < 0x2000) :
    byteAt u a = byteAt s a := by
  cases h with
  | keeps h =>
    simp only [blockView, Prod.mk.injEq] at h
    obtain ⟨hmem, hepoch, -⟩ := h
    exact byteAt_congr hmem hepoch a
  | setBase sn => rfl
  | clear => rw [byteAt_accCleared, if_neg (by omega)]
  | foldHeader len => rfl
  | foldPayload h => rw [byteAt_foldPay, if_neg (by omega)]
  | foldBoth h => rw [byteAt_foldPay, if_neg (by omega)]; rfl
  | emit h => rw [byteAt_fecEmit, if_neg (by omega)]
  | load h => rw [byteAt_fecLoad, if_neg (by omega), if_neg (by omega)]
  | recovered i h => rw [byteAt_recoverEmit, if_neg (by omega)]

/-- Every byte below OUT is as before a command, whether it succeeds or fails. -/
theorem exec_byteAt_of_lt {i : Instr} {s t : State} (h : exec i s = .next t) {a : Nat}
    (ha : a < 0x2000) : byteAt t a = byteAt s a := by
  obtain ⟨u, hb, rfl⟩ | ⟨c, -, rfl⟩ := exec_cases h
  · exact (body_ok_blockUpdate hb).byteAt_of_lt ha
  · rfl

/-- A command leaves IN_LEN. -/
theorem exec_inLen {i : Instr} {s t : State} (h : exec i s = .next t) : t.inLen = s.inLen := by
  obtain ⟨u, hb, rfl⟩ | ⟨c, -, rfl⟩ := exec_cases h
  · exact (body_ok_frame hb).1
  · rfl

/-- Settles O25: a command writes no byte below OUT, and not IN_LEN. -/
theorem commandsNeverWriteIn : Obligations.CommandsNeverWriteIn := by
  intro i s t h
  have e : Config.inBase = 0x1000 := rfl
  exact ⟨exec_inLen h, fun k hk => exec_byteAt_of_lt h (by omega)⟩

/-! ### What a bus access does to the buffers -/

/-- A read leaves the buffers, the lengths and the counters. -/
theorem blockView_busRead (w : Width) (a : Nat) (s : State) :
    blockView (busRead w a s) = blockView s := by
  unfold busRead; split <;> rfl

/-- An illegal write is the bus error (R44). -/
theorem busStore_illegal {w : Width} {a : Nat} (h : ¬ LegalWrite w a) (d : Word) (s : State) :
    busStore w a d s = busError s := by
  unfold busStore
  rw [if_neg (mt (writeLegal_iff w a).1 h)]

/-- A legal byte write stores bits 7:0 of the data (R42). -/
theorem busStore_byte {a : Nat} (hlo : 0x1000 ≤ a) (hhi : a ≤ 0x15BF) (d : Word) (s : State) :
    busStore .b8 a d s = storeIn a [d.extractLsb' 0 8] s := by
  rw [busStore, if_pos ((writeLegal_iff .b8 a).2 ⟨hlo, hhi⟩)]

/-- A legal word write to IN stores the data's four bytes (R42). -/
theorem busStore_word {a : Nat} (h4 : a % 4 = 0) (hlo : 0x1000 ≤ a) (hhi : a ≤ 0x15BF) (d : Word)
    (s : State) : busStore .b32 a d s = storeIn a (toBE32 d) s := by
  have e1 : inLenAddr = 0x0010 := rfl
  have e2 : mwLoAddr = 0x002C := rfl
  have e3 : mwHiAddr = 0x0030 := rfl
  have hl : LegalWrite .b32 a := ⟨h4, .inr (.inr (.inr (.inr ⟨hlo, hhi⟩)))⟩
  rw [busStore, if_pos ((writeLegal_iff .b32 a).2 hl)]
  rw [if_neg (by omega), if_neg (by omega), if_neg (by omega)]

/-- A write that is not a command leaves the buffers, the lengths and the counters, or it stores bytes that lie in IN
(R37, R43, R44). -/
theorem busStore_cases {w : Width} {a : Nat} (hw : ¬ (w = .b32 ∧ a = cmdAddr)) (d : Word)
    (s : State) :
    blockView (busStore w a d s) = blockView s ∨
      ∃ bs : List Byte, 0x1000 ≤ a ∧ a + bs.length ≤ 0x15C0 ∧ busStore w a d s = storeIn a bs s := by
  by_cases hl : writeLegal w a = true
  · have hl' := (writeLegal_iff w a).1 hl
    cases w with
    | b8 =>
      obtain ⟨hlo, hhi⟩ := hl'
      exact .inr ⟨[d.extractLsb' 0 8], hlo, Nat.succ_le_succ hhi, busStore_byte hlo hhi d s⟩
    | b16 => exact hl'.elim
    | b32 =>
      obtain ⟨h4, rfl | rfl | rfl | rfl | ⟨hlo, hhi⟩⟩ := hl'
      · exact absurd ⟨rfl, rfl⟩ hw
      · left; rw [busStore_inLen]; rfl
      · left; rw [busStore_mwLo]; rfl
      · left; rw [busStore_mwHi]; rfl
      · exact .inr ⟨toBE32 d, hlo, show a + 4 ≤ 0x15C0 by omega, busStore_word h4 hlo hhi d s⟩
  · left; rw [busStore_illegal (mt (writeLegal_iff w a).2 hl)]; rfl

/-! ### The invariant of the buffers -/

/-- The invariant depends on `blockView` only. -/
theorem BlockInv.congr {s t : State} (hs : BlockInv s) (h : blockView t = blockView s) :
    BlockInv t := by
  simp only [blockView, Prod.mk.injEq] at h
  obtain ⟨hmem, hepoch, hpmax, hprot, hout, hfcnt, hsnb⟩ := h
  refine ⟨?_, ?_, ?_, ?_, ?_, fun j hj hlt => ?_, ?_⟩
  · rw [hmem]; exact hs.memWf
  · rw [hmem]; exact hs.memInside
  · rw [hpmax]; exact hs.pmaxFits
  · rw [hprot]; exact hs.protFits
  · rw [hout]; exact hs.outLenFits
  · exact (byteAt_congr hmem hepoch _).trans (hs.paccAbovePmax j (hpmax ▸ hj) hlt)
  · rw [hfcnt, hsnb]; exact hs.foldedHasBase

/-- Bytes written inside a buffer keep every listed byte inside the buffers. -/
theorem memInside_memWriteBytes {m : Memory} {a : Nat} {bs : List Byte}
    (hm : ∀ c ∈ m, BufferAddr c.1) (hin : ∀ x, a ≤ x → x < a + bs.length → BufferAddr x) :
    ∀ c ∈ memWriteBytes m a bs, BufferAddr c.1 := by
  intro c hc
  obtain ⟨hlo, hhi⟩ | hc := mem_of_mem_memWriteBytes hc
  · exact hin _ hlo hhi
  · exact hm c hc

/-- Bytes written to IN or OUT, with a length of the packet in OUT that fits, keep the invariant. -/
theorem BlockInv.write {s : State} (hs : BlockInv s) {a : Nat} {bs : List Byte} {len : Half}
    (hin : (0x1000 ≤ a ∧ a + bs.length ≤ 0x15C0) ∨ (0x2000 ≤ a ∧ a + bs.length ≤ 0x25C0))
    (hlen : len.toNat ≤ 1472) :
    BlockInv { s with mem := memWriteBytes s.mem a bs, outLen := len } where
  memWf := memWriteBytes_wf a bs hs.memWf
  memInside := memInside_memWriteBytes hs.memInside fun x _ _ => by unfold BufferAddr; omega
  pmaxFits := hs.pmaxFits
  protFits := hs.protFits
  outLenFits := hlen
  paccAbovePmax j hj hlt := by
    have e : Config.paccBase = 0x3000 := rfl
    exact (memRead_memWriteBytes_outside _ _ _ _ _ (by omega)).trans (hs.paccAbovePmax j hj hlt)
  foldedHasBase := hs.foldedHasBase

/-- The accumulator's clear keeps the invariant (R73). -/
theorem BlockInv.accCleared {s : State} (hs : BlockInv s) : BlockInv (accCleared s) where
  memWf := memClearPacc_wf hs.memWf
  memInside c hc := hs.memInside c (mem_of_mem_memClearPacc hc)
  pmaxFits := Nat.zero_le _
  protFits := hs.protFits
  outLenFits := hs.outLenFits
  paccAbovePmax j _ hlt := by
    have e : Config.paccBase = 0x3000 := rfl
    rw [paccByte, byteAt_accCleared, if_pos (by omega)]
  foldedHasBase h := absurd rfl h

/-- A header fold keeps the invariant: it sets the base of the group that it counts (R24, R74). -/
theorem BlockInv.foldHdr {s : State} (hs : BlockInv s) (len : Nat) : BlockInv (foldHdr len s) where
  memWf := hs.memWf
  memInside := hs.memInside
  pmaxFits := hs.pmaxFits
  protFits := hs.protFits
  outLenFits := hs.outLenFits
  paccAbovePmax := hs.paccAbovePmax
  foldedHasBase _ := rfl

/-- SN_SETBASE keeps the invariant (R91). -/
theorem BlockInv.snSetbase {s : State} (hs : BlockInv s) (sn : Half) : BlockInv (snSetbase sn s) where
  memWf := hs.memWf
  memInside := hs.memInside
  pmaxFits := hs.pmaxFits
  protFits := hs.protFits
  outLenFits := hs.outLenFits
  paccAbovePmax := hs.paccAbovePmax
  foldedHasBase _ := rfl

/-- PMAX after a payload fold of a legal length (R75). -/
theorem foldPay_pmax_toNat {len : Nat} (hlen : len ≤ 1472) (s : State) :
    (foldPay len s).pmax.toNat = max s.pmax.toNat (len - 12) := by
  show (BitVec.ofNat 16 (max s.pmax.toNat (len - 12))).toNat = _
  rw [BitVec.toNat_ofNat, Nat.mod_eq_of_lt (by omega)]

/-- A payload fold of a legal length keeps the invariant: the folded bytes lie below the new PMAX (R75). -/
theorem BlockInv.foldPay {s : State} (hs : BlockInv s) {len : Nat} (hlen : len ≤ 1472) :
    BlockInv (foldPay len s) where
  memWf := memWriteBytes_wf _ _ hs.memWf
  memInside := memInside_memWriteBytes hs.memInside fun x hlo hhi => by
    rw [paccFolded_length] at hhi
    have e1 : Config.paccBase = 0x3000 := rfl
    have e2 : Config.hdrLen = 12 := rfl
    unfold BufferAddr
    omega
  pmaxFits := by
    have := hs.pmaxFits
    rw [foldPay_pmax_toNat hlen]; omega
  protFits := hs.protFits
  outLenFits := hs.outLenFits
  paccAbovePmax j hj hlt := by
    have e : Config.paccBase = 0x3000 := rfl
    rw [foldPay_pmax_toNat hlen] at hj
    rw [paccByte, byteAt_foldPay, if_neg (by omega)]
    exact hs.paccAbovePmax j (by omega) hlt
  foldedHasBase := hs.foldedHasBase

/-- FEC_PARSE of a packet that fits keeps the invariant: PACC is zero from the protection length on (R97). -/
theorem BlockInv.fecLoad {s : State} (hs : BlockInv s)
    (hlen : 24 + maskLen (fecLongFlag s) + fecProtLen s ≤ 1472) : BlockInv (fecLoad s) := by
  have e : Config.paccBase = 0x3000 := rfl
  have hml : 2 ≤ maskLen (fecLongFlag s) := by cases fecLongFlag s <;> decide
  have hpl : (BitVec.ofNat 16 (fecProtLen s)).toNat = fecProtLen s := by
    rw [BitVec.toNat_ofNat, Nat.mod_eq_of_lt (by omega)]
  refine ⟨memWriteBytes_wf _ _ (memClearPacc_wf hs.memWf),
    memInside_memWriteBytes (fun c hc => hs.memInside c (mem_of_mem_memClearPacc hc)) ?_,
    ?_, ?_, hs.outLenFits, fun j hj hlt => ?_, fun h => absurd rfl h⟩
  · intro x hlo hhi
    rw [inBytesFrom_length] at hhi
    unfold BufferAddr
    omega
  · rw [fecLoad_pmax, hpl]; omega
  · rw [fecLoad_prot, hpl]; omega
  · rw [fecLoad_pmax, hpl] at hj
    rw [paccByte, byteAt_fecLoad, if_neg (by omega), if_pos (by omega)]

/-- Every update of a successful command keeps the invariant. -/
theorem BlockUpdate.blockInv {s u : State} (h : BlockUpdate s u) (hs : BlockInv s) : BlockInv u := by
  have e : Config.outBase = 0x2000 := rfl
  cases h with
  | keeps h => exact hs.congr h
  | setBase sn => exact hs.snSetbase sn
  | clear => exact hs.accCleared
  | foldHeader len => exact hs.foldHdr len
  | foldPayload h => exact hs.foldPay h
  | foldBoth h => exact (hs.foldHdr _).foldPay h
  | load h => exact hs.fecLoad h
  | emit h =>
    have hout : (fecEmit Config.padStyle Config.padFlagLoc s).outLen.toNat ≤ 1472 := by
      rw [fecEmit_outLen, BitVec.toNat_ofNat]; omega
    refine (hs.write (.inr ⟨le_rfl, ?_⟩) hout).congr rfl
    rw [fecPacket_length]; omega
  | recovered i h =>
    have hprot := hs.protFits
    have e' : Config.hdrLen = 12 := rfl
    have hout : (recoverEmit i s).outLen.toNat ≤ 1472 := by
      rw [recoverEmit_outLen, BitVec.toNat_ofNat]; omega
    refine (hs.write (.inr ⟨le_rfl, ?_⟩) hout).congr rfl
    rw [recoveredPacket_length]; omega

/-- Every command keeps the invariant. -/
theorem BlockInv.exec {i : Instr} {s t : State} (hs : BlockInv s) (h : exec i s = .next t) :
    BlockInv t := by
  obtain ⟨u, hb, rfl⟩ | ⟨c, -, rfl⟩ := exec_cases h
  · exact ((body_ok_blockUpdate hb).blockInv hs).congr rfl
  · exact hs.congr rfl

/-- Every bus write that is not a command keeps the invariant. -/
theorem BlockInv.busStore {w : Width} {a : Nat} (hw : ¬ (w = .b32 ∧ a = cmdAddr)) (d : Word)
    {s : State} (hs : BlockInv s) : BlockInv (busStore w a d s) := by
  obtain h | ⟨bs, hlo, hhi, h⟩ := busStore_cases hw d s
  · exact hs.congr h
  · rw [h]
    exact hs.write (.inl ⟨hlo, hhi⟩) hs.outLenFits

/-- A reset establishes the invariant, whatever the state before it (R117). -/
theorem blockInv_afterReset (s : State) : BlockInv (afterReset s) where
  memWf := blockInvAtReset.memWf
  memInside := blockInvAtReset.memInside
  pmaxFits := blockInvAtReset.pmaxFits
  protFits := blockInvAtReset.protFits
  outLenFits := blockInvAtReset.outLenFits
  paccAbovePmax _ _ hlt := paccByte_of_mem_nil rfl hlt
  foldedHasBase := blockInvAtReset.foldedHasBase

/-- Settles O13: each thing that a step can serve keeps the invariant. -/
theorem everyStepKeepsBlockInv : Obligations.EveryStepKeepsBlockInv := by
  intro s t hs h
  have hrest : ∀ rest, BlockInv { s with host := rest } := fun _ => hs.congr rfl
  obtain ⟨-, rfl⟩ | ⟨rest, -, rfl⟩ | ⟨rest, w, a, -, rfl⟩ | ⟨rest, w, a, d, -, hw, rfl⟩ |
    ⟨rest, a, d, -, -, hc⟩ := step_cases h
  · exact hs
  · exact blockInv_afterReset _
  · exact (hrest rest).congr (blockView_busRead w a.toNat _)
  · exact (hrest rest).busStore hw d
  · obtain ⟨i, -, hx⟩ | ⟨-, rfl⟩ := hc
    · exact (hrest rest).exec hx
    · exact (hrest rest).congr rfl

end Sys2Proof.Machine
end

section
/-! PROOFS. The host's accesses of 20_memory.md: illegal accesses, reads, writes to IN, the words of the register
window, and the step that runs a command. -/

namespace Sys2Proof.Machine

/-! ### The step -/

/-- Settles O6: the word written to CMD is run by the command it decodes to. -/
theorem stepRunsTheDecodedCommand : Obligations.StepRunsTheDecodedCommand := by
  intro s rest d i h hd
  rw [step_command h rfl, runCommand, hd]

/-- A word written to CMD ends in a next state, legal or not (R57, R106). -/
theorem runCommand_next (d : Word) (s : State) : ∃ t, runCommand d s = .next t := by
  unfold runCommand
  cases decode d with
  | ok i => exact exec_next i s
  | error e => exact ⟨_, rfl⟩

/-- Settles O8: a settled event is a next state, and so is a word written to CMD. -/
theorem everyStepCompletes : Obligations.EveryStepCompletes := by
  intro s
  unfold step
  cases serve s with
  | settled t => exact ⟨t, rfl⟩
  | command d t => exact runCommand_next d t

/-! ### Illegal accesses (R44) -/

/-- An illegal read returns 0 and is the bus error (R44). -/
theorem busRead_illegal {w : Width} {a : Nat} (h : ¬ LegalRead w a) (s : State) :
    busRead w a s = { s with flagBuserr := true, busData := 0 } := by
  rw [busRead, if_neg (mt (readLegal_iff w a).1 h)]; rfl

/-- A word write to CMD is legal (R43). -/
theorem legalWrite_cmd : LegalWrite .b32 cmdAddr := ⟨rfl, .inl rfl⟩

/-- A read never clears BUSERR. -/
theorem busRead_keeps_flagBuserr {w : Width} {a : Nat} {s : State} (h : s.flagBuserr = true) :
    (busRead w a s).flagBuserr = true := by
  unfold busRead
  split
  · exact h
  · rfl

/-- A write that is not a command never clears BUSERR. -/
theorem busStore_keeps_flagBuserr {w : Width} {a : Nat} {d : Word} {s : State}
    (h : s.flagBuserr = true) : (busStore w a d s).flagBuserr = true := by
  unfold busStore
  split
  · cases w
    case b32 => dsimp only; split_ifs <;> exact h
    all_goals exact h
  · rfl

/-- A command other than STAT_CLR leaves BUSERR. -/
theorem exec_flagBuserr {i : Instr} {s t : State} (h : exec i s = .next t) (hi : i ≠ .statClr) :
    t.flagBuserr = s.flagBuserr := by
  obtain ⟨u, hb, rfl⟩ | ⟨c, -, rfl⟩ := exec_cases h
  · obtain ⟨-, -, -, -, hrecord⟩ := body_ok_frame hb
    obtain ⟨-, -, hbus⟩ := hrecord hi
    exact hbus
  · rfl

/-- STAT_CLR is spelled by one word only (R55, R71). -/
theorem eq_of_decode_statClr {d : Word} (h : decode d = .ok .statClr) : d = 0x02000000 := by
  simp only [decode] at h
  split at h
  case h_3 hop =>
    obtain ⟨ha, hb, -⟩ := decodeZ_eq_ok.1 h
    have ho : opField d = 0x02 := BitVec.eq_of_toNat_eq hop
    rw [← mkWord_fields d, ho, ha, hb]; rfl
  all_goals
    simp only [decodeZ_eq_ok, decodeL_eq_ok, decodeP_eq_ok, decodeO_eq_ok, decodeG_eq_ok,
      decodeN_eq_ok, reduceCtorEq, and_false, or_false, exists_false] at h

/-- Settles O17: an illegal access is the bus error, and of the events a step can serve only a reset and STAT_CLR clear
BUSERR. -/
theorem illegalAccessSetsOnlyBuserr : Obligations.IllegalAccessSetsOnlyBuserr := by
  refine ⟨fun s rest w a d => ⟨fun h hl => ?_, fun h hl => ?_⟩, fun s t h hs ht => ?_⟩
  · rw [step_read h, busRead_illegal hl]
  · have hcmd : ¬ (w = .b32 ∧ a.toNat = cmdAddr) := by
      rintro ⟨rfl, ha⟩
      exact hl (ha ▸ legalWrite_cmd)
    rw [step_store h hcmd, busStore_illegal hl]; rfl
  · have cleared : t.flagBuserr ≠ true := Bool.eq_false_iff.1 ht
    obtain ⟨-, rfl⟩ | ⟨rest, he, -⟩ | ⟨rest, w, a, -, rfl⟩ | ⟨rest, w, a, d, -, -, rfl⟩ |
      ⟨rest, a, d, he, ha, hc⟩ := step_cases h
    · exact absurd hs cleared
    · exact ⟨_, rest, he, .inl rfl⟩
    · exact absurd (busRead_keeps_flagBuserr (s := { s with host := rest }) hs) cleared
    · exact absurd (busStore_keeps_flagBuserr (s := { s with host := rest }) hs) cleared
    · obtain rfl : a = 0x0000 := BitVec.eq_of_toNat_eq ha
      obtain ⟨i, hd, hx⟩ | ⟨-, rfl⟩ := hc
      · by_cases hi : i = .statClr
        · subst hi
          exact ⟨_, rest, he, .inr (by rw [eq_of_decode_statClr hd])⟩
        · exact absurd ((exec_flagBuserr hx hi).trans hs) cleared
      · exact absurd hs cleared

/-! ### Legal reads (R42, R46) -/

/-- A legal read changes nothing but the returned data (R46). -/
theorem busRead_legal {w : Width} {a : Nat} (h : LegalRead w a) (s : State) :
    busRead w a s = { s with busData := readData w a s } := by
  rw [busRead, if_pos ((readLegal_iff w a).2 h)]

/-- A word read of the register window returns the register's word (R36). -/
theorem readData_window {a : Nat} (h : a ≤ 0x0063) (s : State) :
    readData .b32 a s = regWord s a := by
  have e : Config.regEnd = 0x64 := rfl
  rw [readData, if_pos (by omega)]

/-- A word read of a buffer returns the buffer's word (R42). -/
theorem readData_buffer {a : Nat} (h : BufferAddr a) (s : State) :
    readData .b32 a s = bufferWord s a := by
  have e : Config.regEnd = 0x64 := rfl
  have hlo : 0x1000 ≤ a := by unfold BufferAddr at h; omega
  rw [readData, if_neg (by omega)]

/-- The returned data does not depend on the waiting accesses or on what the last read returned. -/
theorem readData_port (w : Width) (a : Nat) (s : State) (q : List HostEvent) (v : Word) :
    readData w a { s with host := q, busData := v } = readData w a s := by
  cases w <;> rfl

/-- A legal read of an address of the register window is a word read. -/
theorem eq_b32_of_legalRead_window {w : Width} {a : Nat} (h : LegalRead w a) (ha : a ≤ 0x0063) :
    w = .b32 := by
  cases w with
  | b8 => simp only [LegalRead, BufferAddr] at h; omega
  | b16 => exact h.elim
  | b32 => rfl

/-- Settles O18: the data of a legal read is a function of what no read changes. -/
theorem legalReadsHaveNoSideEffect : Obligations.LegalReadsHaveNoSideEffect := by
  intro s rest w a h hl
  refine ⟨readData w a.toNat s, ?_, ?_, fun ha => ?_⟩
  · rw [step_read h, busRead_legal hl]
    exact congrArg (fun v => Host.Outcome.next { s with host := .read w a :: rest, busData := v })
      (readData_port w a.toNat s _ s.busData)
  · rw [step_read rfl, busRead_legal hl]
    exact congrArg (fun v => Host.Outcome.next { s with host := rest, busData := v })
      (readData_port w a.toNat s _ _)
  · obtain rfl := eq_b32_of_legalRead_window hl ha
    exact readData_window ha s

/-! ### The register window (R36) -/

/-- The value of a concatenation. -/
theorem toNat_append_eq {m n : Nat} (x : BitVec m) (y : BitVec n) :
    (x ++ y).toNat = x.toNat * 2 ^ n + y.toNat := by
  rw [BitVec.toNat_append, ← Nat.shiftLeft_add_eq_or_of_lt y.isLt, Nat.shiftLeft_eq]

/-- STATUS as a number (R27). -/
theorem statusWord_toNat (s : State) :
    (statusWord s).toNat = s.err.toNat + 16 * s.flagNone.toNat + 32 * s.flagInwin.toNat
      + 64 * s.flagIsfec.toNat + 128 * s.flagBit.toNat + 256 * s.flagBuserr.toNat
      + 32768 * s.flagSticky.toNat := by
  simp only [statusWord, toNat_append_eq, BitVec.toNat_ofBool, BitVec.toNat_ofNat, Nat.zero_mod]
  omega

/-- The host word SNBASE holds the base in bits 15:0, SNB_VALID in bit 16 and ISLONG in bit 17 (R36). -/
theorem regWord_snbase_toNat (s : State) :
    (regWord s 0x001C).toNat =
      s.snbase.toNat + 65536 * s.snbValid.toNat + 131072 * s.islong.toNat := by
  show ((0#14 : BitVec 14) ++ BitVec.ofBool s.islong ++ BitVec.ofBool s.snbValid ++ s.snbase).toNat = _
  simp only [toNat_append_eq, BitVec.toNat_ofBool, BitVec.toNat_ofNat, Nat.zero_mod]
  omega

/-- The host word MASK_LO holds offsets 31:0 (R36). -/
theorem regWord_maskLo_toNat (s : State) :
    (regWord s 0x0024).toNat = s.mask.toNat % 4294967296 := by
  show (s.mask.extractLsb' 0 32).toNat = _
  rw [BitVec.extractLsb'_toNat, Nat.shiftRight_zero]

/-- The host word MASK_HI holds offsets 47:32 (R36). -/
theorem regWord_maskHi_toNat (s : State) :
    (regWord s 0x0028).toNat = s.mask.toNat / 4294967296 := by
  have hm := s.mask.isLt
  show ((s.mask.extractLsb' 32 16).setWidth 32).toNat = _
  rw [BitVec.toNat_setWidth_of_le (by decide), BitVec.extractLsb'_toNat, Nat.shiftRight_eq_div_pow]
  omega

/-- The host word ACCINFO holds FCNT in bits 7:0 and PMAX in bits 31:16 (R36). -/
theorem regWord_accInfo_toNat (s : State) :
    (regWord s 0x0034).toNat = s.fcnt.toNat + 65536 * s.pmax.toNat := by
  show (s.pmax ++ (0#8 : BitVec 8) ++ s.fcnt).toNat = _
  simp only [toNat_append_eq, BitVec.toNat_ofNat, Nat.zero_mod]
  omega

/-- The host word of the first header half holds RTP_B0, RTP_B1 and RTP_SN (R36). -/
theorem regWord_rtpHeader_toNat (s : State) :
    (regWord s 0x003C).toNat = s.rtpB0.toNat + 256 * s.rtpB1.toNat + 65536 * s.rtpSn.toNat := by
  show (s.rtpSn ++ s.rtpB1 ++ s.rtpB0).toNat = _
  simp only [toNat_append_eq]
  omega

/-- A big-endian word whose low half is 0. -/
theorem be32_zero_low_toNat (a b : Byte) :
    (be32 a b 0 0).toNat = 16777216 * a.toNat + 65536 * b.toNat := be32_toNat a b 0 0

/-- Settles O22: the word read is the register's, and the registers' words are put together from their fields. -/
theorem registerWindowContents : Obligations.RegisterWindowContents := by
  refine ⟨fun s rest a h h4 ha => ?_, fun s => ?_⟩
  · have hl : LegalRead .b32 a.toNat := ⟨h4, .inl ha⟩
    rw [step_read h, busRead_legal hl, readData_window ha]; rfl
  · exact ⟨rfl, statusWord_toNat s, rfl, rfl, regWord_inLen_toNat s,
      BitVec.toNat_setWidth_of_le (by decide), regWord_ctx_toNat s, regWord_snbase_toNat s,
      BitVec.toNat_setWidth_of_le (by decide), regWord_maskLo_toNat s, regWord_maskHi_toNat s,
      be32_toNat _ _ _ _, be32_zero_low_toNat _ _, regWord_accInfo_toNat s,
      BitVec.toNat_setWidth_of_le (by decide), regWord_rtpHeader_toNat s, rfl, rfl,
      BitVec.toNat_setWidth_of_le (by decide), rfl, rfl, rfl, be32_toNat _ _ _ _,
      be32_toNat _ _ _ _, be32_zero_low_toNat _ _⟩

/-! ### Writes to IN (R37, R40, R42) -/

/-- A read leaves every byte of the buffers. -/
theorem byteAt_busRead (w : Width) (a : Nat) (s : State) (x : Nat) :
    byteAt (busRead w a s) x = byteAt s x := by
  unfold busRead; split <;> rfl

/-- A step that serves a byte write to IN stores bits 7:0 of the data. -/
theorem step_write_byte {s : State} {rest : List HostEvent} {a : BitVec 16} {d : Word}
    (h : s.host = .write .b8 a d :: rest) (hlo : 0x1000 ≤ a.toNat) (hhi : a.toNat ≤ 0x15BF) :
    step s = .next (storeIn a.toNat [d.extractLsb' 0 8] { s with host := rest }) := by
  rw [step_store h (fun hw => nomatch hw.1), busStore_byte hlo hhi]

/-- A step that serves an aligned word write to IN stores the data's four bytes. -/
theorem step_write_word {s : State} {rest : List HostEvent} {a : BitVec 16} {d : Word}
    (h : s.host = .write .b32 a d :: rest) (h4 : a.toNat % 4 = 0) (hlo : 0x1000 ≤ a.toNat)
    (hhi : a.toNat ≤ 0x15BF) :
    step s = .next (storeIn a.toNat (toBE32 d) { s with host := rest }) := by
  have e : cmdAddr = 0x0000 := rfl
  rw [step_store h (by omega), busStore_word h4 hlo hhi]

/-- Settles O20: the byte at an address is the last byte written there, and of the events a step can serve only a reset
and a covering write change a byte of IN. -/
theorem hostByteWriteReadsBack : Obligations.HostByteWriteReadsBack := by
  refine ⟨fun s rest a d h hlo hhi => ⟨_, step_write_byte h hlo hhi, ?_, fun x hx => ?_, rfl⟩,
    fun s t x h _ hhi hne => ?_⟩
  · have hr := memRead_memWrite s.epoch s.mem a.toNat (d.extractLsb' 0 8) a.toNat
    rw [if_pos rfl] at hr
    exact (congrArg BitVec.toNat hr).trans (by rw [BitVec.extractLsb'_toNat, Nat.shiftRight_zero])
  · have hr := memRead_memWrite s.epoch s.mem a.toNat (d.extractLsb' 0 8) x
    rw [if_neg hx] at hr
    exact hr
  · obtain ⟨-, rfl⟩ | ⟨rest, he, -⟩ | ⟨rest, w, a, -, rfl⟩ | ⟨rest, w, a, d, he, -, rfl⟩ |
      ⟨rest, a, d, -, -, hc⟩ := step_cases h
    · exact absurd rfl hne
    · exact ⟨_, rest, he, .inl rfl⟩
    · exact absurd (byteAt_busRead w a.toNat _ x) hne
    · obtain ⟨rfl, ha⟩ | ⟨rfl, h4, hle, hlt⟩ := byteAt_busStore (s := { s with host := rest }) hne
      · exact ⟨_, rest, he, .inr (.inl ⟨a, d, rfl, ha⟩)⟩
      · exact ⟨_, rest, he, .inr (.inr ⟨a, d, rfl, h4, hle, hlt⟩)⟩
    · obtain ⟨i, -, hx⟩ | ⟨-, rfl⟩ := hc
      · exact absurd (exec_byteAt_of_lt hx (by omega)) hne
      · exact absurd rfl hne

/-! ### A word access as byte accesses (R42) -/

/-- One step of a run. -/
theorem run_succ_of_step {M : Host.Core} {s t : M.State} (k : Nat) (h : M.step s = .next t) :
    M.run (k + 1) s = M.run k t := by
  rw [Host.Core.run, h]

/-- Bits 7:0 of a shifted word are a byte of the word. -/
theorem byte_of_shift (d : Word) (n : Nat) : (d >>> n).extractLsb' 0 8 = d.extractLsb' n 8 := rfl

/-- The addresses of a word in IN do not wrap. -/
theorem toNat_add_of_in {a : BitVec 16} (ha : a.toNat ≤ 0x15BF) (k : Nat) (hk : k < 4) :
    (a + BitVec.ofNat 16 k).toNat = a.toNat + k := by
  rw [BitVec.toNat_add, BitVec.toNat_ofNat]; omega

/-- The byte in bits 7:0 of the returned data (R42). -/
theorem readData_byte_toNat (a : Nat) (s : State) :
    (readData .b8 a s).toNat = (byteAt s a).toNat :=
  BitVec.toNat_setWidth_of_le (by decide)

/-- A word's bytes are bits 7:0 of the shifted words. -/
theorem toBE32_eq_shifts (d : Word) :
    toBE32 d = [(d >>> 24).extractLsb' 0 8, (d >>> 16).extractLsb' 0 8, (d >>> 8).extractLsb' 0 8,
      d.extractLsb' 0 8] := by
  rw [byte_of_shift d 24, byte_of_shift d 16, byte_of_shift d 8]; rfl

/-- Bytes stored in IN are stored one by one from the lowest address on. -/
theorem storeIn_cons (a : Nat) (b : Byte) (bs : List Byte) (s : State) :
    storeIn a (b :: bs) s = storeIn (a + 1) bs (storeIn a [b] s) := rfl

/-- A run whose first step serves a byte write to IN. -/
theorem run_write_byte (k : Nat) (s : State) {rest : List HostEvent} {a : BitVec 16} {d : Word}
    {n : Nat} (hn : a.toNat = n) (hlo : 0x1000 ≤ n) (hhi : n ≤ 0x15BF) :
    Sys2Proof.core.run (k + 1) { s with host := .write .b8 a d :: rest } =
      Sys2Proof.core.run k { storeIn n [d.extractLsb' 0 8] s with host := rest } := by
  subst hn
  exact run_succ_of_step (M := Sys2Proof.core) k
    (step_write_byte (s := { s with host := .write .b8 a d :: rest }) rfl hlo hhi)

/-- The four byte writes of a word store its bytes from the lowest address on. -/
theorem run_four_bytes (s : State) {a : BitVec 16} (d : Word) (h4 : a.toNat % 4 = 0)
    (hlo : 0x1000 ≤ a.toNat) (hhi : a.toNat ≤ 0x15BF) :
    Sys2Proof.core.run 4 { s with
        host := [.write .b8 a (d >>> 24), .write .b8 (a + 1) (d >>> 16),
                 .write .b8 (a + 2) (d >>> 8), .write .b8 (a + 3) d] } =
      .next { storeIn a.toNat (toBE32 d) s with host := [] } := by
  rw [toBE32_eq_shifts, storeIn_cons, storeIn_cons, storeIn_cons]
  exact (run_write_byte 3 s rfl hlo hhi).trans <|
    (run_write_byte 2 _ (toNat_add_of_in hhi 1 (by decide)) (by omega) (by omega)).trans <|
    (run_write_byte 1 _ (toNat_add_of_in hhi 2 (by decide)) (by omega) (by omega)).trans <|
    run_write_byte 0 _ (toNat_add_of_in hhi 3 (by decide)) (by omega) (by omega)

/-- Settles O19: reads by the data they return, and the word write by storing the same four bytes one by one. -/
theorem wordAccessIsFourByteAccesses : Obligations.WordAccessIsFourByteAccesses := by
  intro s a d ha
  refine ⟨?_, fun h4 => ?_, fun h4 hhi => ?_⟩
  · refine ⟨_, step_read rfl, ?_⟩
    rw [busRead_legal (w := .b8) ha]
    exact readData_byte_toNat a.toNat _
  · refine ⟨_, step_read rfl, ?_⟩
    rw [busRead_legal (w := .b32) ⟨h4, .inr ha⟩]
    show (readData .b32 a.toNat _).toNat = _
    rw [readData_buffer ha]
    exact be32_toNat _ _ _ _
  · have hlo : 0x1000 ≤ a.toNat := by unfold BufferAddr at ha; omega
    have hword := step_write_word (s := { s with host := [.write .b32 a d] }) rfl h4 hlo hhi
    exact (run_succ_of_step (M := Sys2Proof.core) 0 hword).trans (run_four_bytes s d h4 hlo hhi).symm

end Sys2Proof.Machine
end

section
/-! PROOFS. A command reads of IN only the packet (20_memory.md R37): its checks and updates on a state whose buffers
differ only in bytes of IN at or above IN_LEN. -/

namespace Sys2Proof.Machine

/-! ### Buffers that agree outside the bytes of IN from a length on -/

/-- The address is a byte of IN at or above a length. -/
def TailOfIn (n a : Nat) : Prop := 0x1000 + n ≤ a ∧ a ≤ 0x15BF

/-- The two buffers hold the same bytes, those of IN from `n` on apart. -/
def AgreesOffTail (n e : Nat) (m m' : Memory) : Prop :=
  ∀ a, ¬ TailOfIn n a → memRead e m' a = memRead e m a

/-- The state with other buffers. -/
def withMem (m : Memory) (s : State) : State := { s with mem := m }

/-- The second state is the first but for bytes of IN from `n` on. -/
def SameOffTail (n : Nat) (s s' : State) : Prop :=
  ∃ m, s' = withMem m s ∧ AgreesOffTail n s.epoch s.mem m

/-- The two results fail with the same code, or succeed with states that are the same but for bytes of IN from `n`
on. -/
inductive SameResult (n : Nat) : Except ErrCode State → Except ErrCode State → Prop where
  | ok {u u' : State} (h : SameOffTail n u u') : SameResult n (.ok u) (.ok u')
  | error (c : ErrCode) : SameResult n (.error c) (.error c)

section Agreement

variable {n e : Nat} {m m' : Memory}

/-- Writing the same bytes keeps the agreement. -/
theorem AgreesOffTail.memWriteBytes (h : AgreesOffTail n e m m') (a : Nat) (bs : List Byte) :
    AgreesOffTail n e (memWriteBytes m a bs) (memWriteBytes m' a bs) := by
  intro x hx
  rw [memRead_memWriteBytes, memRead_memWriteBytes, h x hx]

/-- Clearing PACC keeps the agreement. -/
theorem AgreesOffTail.memClearPacc (h : AgreesOffTail n e m m') :
    AgreesOffTail n e (memClearPacc m) (memClearPacc m') := by
  intro x hx
  rw [memRead_memClearPacc, memRead_memClearPacc, h x hx]

end Agreement

section Reads

variable {n : Nat} {s : State} {m : Memory}

/-- A byte of the packet. -/
theorem AgreesOffTail.inByte (h : AgreesOffTail n s.epoch s.mem m) {i : Nat} (hi : i < n) :
    inByte (withMem m s) i = inByte s i := by
  have e : Config.inBase = 0x1000 := rfl
  exact h _ (by unfold TailOfIn; omega)

theorem AgreesOffTail.inBE16 (h : AgreesOffTail n s.epoch s.mem m) {i : Nat} (hi : i + 1 < n) :
    inBE16 (withMem m s) i = inBE16 s i := by
  rw [Machine.inBE16, Machine.inBE16, h.inByte (by omega), h.inByte hi]

theorem AgreesOffTail.inBE32 (h : AgreesOffTail n s.epoch s.mem m) {i : Nat} (hi : i + 3 < n) :
    inBE32 (withMem m s) i = inBE32 s i := by
  rw [Machine.inBE32, Machine.inBE32, h.inByte (by omega), h.inByte (by omega), h.inByte (by omega),
    h.inByte hi]

theorem AgreesOffTail.inBytesFrom (h : AgreesOffTail n s.epoch s.mem m) {i l : Nat} (hl : i + l ≤ n) :
    inBytesFrom (withMem m s) i l = inBytesFrom s i l :=
  List.map_congr_left fun j hj => h.inByte (by rw [List.mem_range] at hj; omega)

/-- PACC holds none of the bytes that may differ. -/
theorem AgreesOffTail.paccByte (h : AgreesOffTail n s.epoch s.mem m) (j : Nat) :
    paccByte (withMem m s) j = paccByte s j := by
  have e : Config.paccBase = 0x3000 := rfl
  exact h _ (by unfold TailOfIn; omega)

theorem AgreesOffTail.paccBytesTo (h : AgreesOffTail n s.epoch s.mem m) (l : Nat) :
    paccBytesTo (withMem m s) l = paccBytesTo s l :=
  List.map_congr_left fun j _ => h.paccByte j

/-- The folded payload of a packet (R75). -/
theorem AgreesOffTail.paccFolded (h : AgreesOffTail n s.epoch s.mem m) {l : Nat} (hl : 12 + l ≤ n) :
    paccFolded l (withMem m s) = paccFolded l s := by
  have e : Config.hdrLen = 12 := rfl
  refine List.map_congr_left fun j hj => ?_
  rw [List.mem_range] at hj
  rw [h.paccByte, h.inByte (by omega)]

/-! ### The updates on the other buffers -/

/-- A header fold reads the packet's first 12 bytes (R74). -/
theorem foldHdr_withMem (h : AgreesOffTail n s.epoch s.mem m) (hn : 12 ≤ n) (len : Nat) :
    foldHdr len (withMem m s) = withMem m (foldHdr len s) := by
  have hacc : haccFolded (BitVec.ofNat 16 (len - Config.hdrLen)) (withMem m s) =
      haccFolded (BitVec.ofNat 16 (len - Config.hdrLen)) s := by
    simp (disch := omega) only [haccFolded, h.inByte]; rfl
  unfold foldHdr
  rw [hacc, h.inBE16 (by omega), h.inBE32 (by omega), h.inBE32 (by omega)]
  rfl

/-- The extractor reads the packet's first 12 bytes (R92). -/
theorem rtpFields_withMem (h : AgreesOffTail n s.epoch s.mem m) (hn : 12 ≤ n) (len : Nat) :
    rtpFields len (withMem m s) = withMem m (rtpFields len s) := by
  unfold rtpFields
  rw [h.inByte (by omega), h.inByte (by omega), h.inBE16 (by omega), h.inBE32 (by omega),
    h.inBE32 (by omega)]
  rfl

/-- A payload fold reads the packet and PACC (R75). -/
theorem foldPay_withMem (h : AgreesOffTail n s.epoch s.mem m) {len : Nat} (h12 : 12 ≤ len) (hn : len ≤ n) :
    SameOffTail n (foldPay len s) (foldPay len (withMem m s)) := by
  have e : Config.hdrLen = 12 := rfl
  refine ⟨memWriteBytes m Config.paccBase (Machine.paccFolded (len - Config.hdrLen) s), ?_,
    h.memWriteBytes _ _⟩
  unfold foldPay
  rw [h.paccFolded (by omega)]
  rfl

/-- FEC_ASM reads PACC of the buffers (R95). -/
theorem fecEmit_withMem (h : AgreesOffTail n s.epoch s.mem m) (style : Config.PadStyle)
    (loc : Config.PadFlagLoc) :
    SameOffTail n (fecEmit style loc s) (fecEmit style loc (withMem m s)) := by
  have hp : fecPacket style loc (withMem m s) = fecPacket style loc s := by
    unfold fecPacket
    rw [h.paccBytesTo]; rfl
  refine ⟨memWriteBytes m Config.outBase (fecPacket style loc s), ?_, ?_⟩
  · unfold fecEmit
    rw [hp]; rfl
  · rw [fecEmit_epoch, fecEmit_mem]; exact h.memWriteBytes _ _

/-- RECOVER reads PACC of the buffers (R98). -/
theorem recoverEmit_withMem (h : AgreesOffTail n s.epoch s.mem m) (i : Nat) :
    SameOffTail n (recoverEmit i s) (recoverEmit i (withMem m s)) := by
  have hp : recoveredPacket i (withMem m s) = recoveredPacket i s := by
    unfold recoveredPacket
    rw [h.paccBytesTo]; rfl
  refine ⟨memWriteBytes m Config.outBase (recoveredPacket i s), ?_, ?_⟩
  · unfold recoverEmit
    rw [hp]; rfl
  · rw [recoverEmit_epoch, recoverEmit_mem]; exact h.memWriteBytes _ _

/-- The packet's long-mask flag (R63). -/
theorem fecLongFlag_withMem (h : AgreesOffTail n s.epoch s.mem m) (hn : 26 ≤ n) :
    fecLongFlag (withMem m s) = fecLongFlag s := by
  unfold fecLongFlag
  rw [h.inByte (by omega)]

/-- The packet's protection length (R64). -/
theorem fecProtLen_withMem (h : AgreesOffTail n s.epoch s.mem m) (hn : 26 ≤ n) :
    fecProtLen (withMem m s) = fecProtLen s := by
  unfold fecProtLen
  rw [h.inBE16 (by omega)]

/-- The mask is read from the bytes of the width that the packet selects (R86, R97). -/
theorem maskRead_withMem (h : AgreesOffTail n s.epoch s.mem m) {long : Bool}
    (hn : 24 + maskLen long ≤ n) :
    maskRead (inByte (withMem m s) 24) (inByte (withMem m s) 25) (inByte (withMem m s) 26)
        (inByte (withMem m s) 27) (inByte (withMem m s) 28) (inByte (withMem m s) 29) long =
      maskRead (inByte s 24) (inByte s 25) (inByte s 26) (inByte s 27) (inByte s 28) (inByte s 29)
        long := by
  cases long with
  | false =>
    have h26 : 26 ≤ n := hn
    show unwire16 _ = unwire16 _
    rw [h.inByte (by omega), h.inByte (by omega)]
  | true =>
    have h30 : 30 ≤ n := hn
    simp (disch := omega) only [h.inByte]

/-- FEC_PARSE of a packet that passes its checks reads bytes of the packet only (R97). -/
theorem fecLoad_withMem (h : AgreesOffTail n s.epoch s.mem m) (h26 : 26 ≤ n)
    (hn : 24 + maskLen (fecLongFlag s) + fecProtLen s ≤ n) :
    SameOffTail n (fecLoad s) (fecLoad (withMem m s)) := by
  have hlong := fecLongFlag_withMem h h26
  have hprot := fecProtLen_withMem h h26
  have hmask : fecMaskBytes (withMem m s) = fecMaskBytes s := by
    unfold fecMaskBytes
    rw [hlong, h.inBytesFrom (by omega)]
  have hacc : fecHaccLoaded (withMem m s) = fecHaccLoaded s := by
    simp (disch := omega) only [fecHaccLoaded, h.inByte]
  have hpay : inBytesFrom (withMem m s) (24 + maskLen (fecLongFlag s)) (fecProtLen s) =
      inBytesFrom s (24 + maskLen (fecLongFlag s)) (fecProtLen s) := h.inBytesFrom hn
  refine ⟨Machine.memWriteBytes (Machine.memClearPacc m) Config.paccBase
    (inBytesFrom s (24 + maskLen (fecLongFlag s)) (fecProtLen s)), ?_, ?_⟩
  · unfold fecLoad
    rw [hlong, hprot, hmask, hacc, hpay, maskRead_withMem h (by omega), h.inBE16 (by omega),
      h.inBE32 (by omega)]
    rfl
  · rw [fecLoad_epoch, fecLoad_mem]; exact h.memClearPacc.memWriteBytes _ _

end Reads

/-! ### A command on the other buffers -/

section Body

variable {s : State} {m : Memory}

/-- A length-checked command whose updates agree for a packet that passes the check (R72). -/
theorem checkedFold_withMem {n : Nat} {lim : Limit} {f : Nat → State → State}
    (h : 12 ≤ s.inLen.toNat →
      SameOffTail n (f s.inLen.toNat s) (f s.inLen.toNat (withMem m s))) :
    SameResult n (checkedFold lim f s) (checkedFold lim f (withMem m s)) := by
  unfold checkedFold
  rw [show lenchk lim (withMem m s) = lenchk lim s from rfl]
  cases hl : lenchk lim s with
  | ok len => obtain ⟨h12, -, rfl⟩ := lenchk_eq_ok.1 hl; exact .ok (h h12)
  | error c => exact .error c

/-- The checks of FEC_PARSE and its updates on the other buffers (R97). -/
theorem fecDisassemble_withMem (h : AgreesOffTail s.inLen.toNat s.epoch s.mem m) :
    SameResult s.inLen.toNat (fecDisassemble s) (fecDisassemble (withMem m s)) := by
  unfold fecDisassemble
  rw [show (withMem m s).inLen = s.inLen from rfl]
  by_cases h26 : s.inLen.toNat < 26
  · by_cases hlen : s.inLen.toNat < Config.minLen ∨ Config.maxDecLen < s.inLen.toNat
    · rw [if_pos hlen, if_pos hlen]; exact .error _
    · rw [if_neg hlen, if_neg hlen, if_pos h26, if_pos h26]; exact .error _
  · rw [fecLongFlag_withMem h (by omega), fecProtLen_withMem h (by omega)]
    split_ifs
    case neg => exact .ok (fecLoad_withMem h (by omega) (by omega))
    all_goals exact .error _

/-- The checks of FEC_ASM read no buffer (R95). -/
theorem fecAssemble_withMem {n : Nat} (h : AgreesOffTail n s.epoch s.mem m) (style : Config.PadStyle)
    (loc : Config.PadFlagLoc) :
    SameResult n (fecAssemble style loc s) (fecAssemble style loc (withMem m s)) := by
  unfold fecAssemble
  rw [show (withMem m s).fcnt = s.fcnt from rfl,
    show maskDoesNotFit (withMem m s) = maskDoesNotFit s from rfl,
    show fecPacketLen style (withMem m s) = fecPacketLen style s from rfl]
  split_ifs
  case neg => exact .ok (fecEmit_withMem h style loc)
  all_goals exact .error _

/-- The checks of RECOVER read no buffer (R98). -/
theorem recoverMissing_withMem {n : Nat} (h : AgreesOffTail n s.epoch s.mem m) :
    SameResult n (recoverMissing s) (recoverMissing (withMem m s)) := by
  unfold recoverMissing
  rw [show (withMem m s).mask = s.mask from rfl, show (withMem m s).prot = s.prot from rfl,
    show recoveredLen (withMem m s) = recoveredLen s from rfl]
  by_cases hcount : 1 < popcount s.mask
  · rw [if_pos hcount, if_pos hcount]; exact .error _
  · rw [if_neg hcount, if_neg hcount]
    cases firstSet s.mask with
    | none => exact .ok ⟨m, rfl, h⟩
    | some i =>
      dsimp only
      split_ifs
      · exact .error _
      · exact .ok (recoverEmit_withMem h i)

theorem maskSet_withMem {n : Nat} (h : AgreesOffTail n s.epoch s.mem m) (o : Half) :
    SameResult n (maskSet o s) (maskSet o (withMem m s)) := by
  unfold maskSet
  cases ofsCheck o with
  | ok k => exact .ok ⟨m, rfl, h⟩
  | error c => exact .error c

theorem maskClrb_withMem {n : Nat} (h : AgreesOffTail n s.epoch s.mem m) (o : Half) :
    SameResult n (maskClrb o s) (maskClrb o (withMem m s)) := by
  unfold maskClrb
  cases ofsCheck o with
  | ok k => exact .ok ⟨m, rfl, h⟩
  | error c => exact .error c

theorem maskTest_withMem {n : Nat} (h : AgreesOffTail n s.epoch s.mem m) (o : Half) :
    SameResult n (maskTest o s) (maskTest o (withMem m s)) := by
  unfold maskTest
  cases ofsCheck o with
  | ok k => exact .ok ⟨m, rfl, h⟩
  | error c => exact .error c

/-- A command's checks and updates on buffers that differ only in bytes of IN at or above IN_LEN: it fails with the
same code, or makes the same updates (R37). -/
theorem body_withMem (i : Instr) (h : AgreesOffTail s.inLen.toNat s.epoch s.mem m) :
    SameResult s.inLen.toNat (body i s) (body i (withMem m s)) := by
  cases i with
  | accClr => exact .ok ⟨memClearPacc m, rfl, h.memClearPacc⟩
  | accFoldHdr lim => exact checkedFold_withMem fun h12 => ⟨m, foldHdr_withMem h h12 _, h⟩
  | accFoldPay lim => exact checkedFold_withMem fun h12 => foldPay_withMem h h12 le_rfl
  | accFold lim =>
    refine checkedFold_withMem (f := fun len t => foldPay len (foldHdr len t)) fun h12 => ?_
    rw [foldHdr_withMem h h12]
    exact foldPay_withMem (s := foldHdr s.inLen.toNat s) h h12 le_rfl
  | rtpParse lim => exact checkedFold_withMem fun h12 => ⟨m, rtpFields_withMem h h12 _, h⟩
  | maskSetImm ofs => exact maskSet_withMem h _
  | maskSetOff => exact maskSet_withMem h s.off
  | maskClrbImm ofs => exact maskClrb_withMem h _
  | maskClrbOff => exact maskClrb_withMem h s.off
  | maskTestImm ofs => exact maskTest_withMem h _
  | maskTestOff => exact maskTest_withMem h s.off
  | maskFirst =>
    simp only [body]
    rw [show (withMem m s).mask = s.mask from rfl]
    cases firstSet s.mask <;> exact .ok ⟨m, rfl, h⟩
  | maskEnc =>
    simp only [body]
    rw [show maskDoesNotFit (withMem m s) = maskDoesNotFit s from rfl]
    split
    · exact .error _
    · exact .ok ⟨m, rfl, h⟩
  | fecAsm => exact fecAssemble_withMem h _ _
  | fecParse => exact fecDisassemble_withMem h
  | recover => exact recoverMissing_withMem h
  | _ => exact .ok ⟨m, rfl, h⟩

/-- A command ends in states that are the same but for bytes of IN at or above IN_LEN. -/
theorem exec_withMem {i : Instr} {t : State} (h : AgreesOffTail s.inLen.toNat s.epoch s.mem m)
    (hx : exec i s = .next t) :
    ∃ t', exec i (withMem m s) = .next t' ∧ SameOffTail s.inLen.toNat t t' := by
  have hbody := body_withMem i h
  obtain ⟨u, hb, rfl⟩ | ⟨c, hb, rfl⟩ := exec_cases hx <;> rw [hb] at hbody
  · generalize hb' : body i (withMem m s) = r at hbody
    cases hbody with
    | ok hu =>
      obtain ⟨m', rfl, hm'⟩ := hu
      exact ⟨_, exec_of_body_ok hb', m', rfl, hm'⟩
  · generalize hb' : body i (withMem m s) = r at hbody
    cases hbody with
    | error => exact ⟨_, exec_of_body_error hb', m, rfl, h⟩

end Body

/-- Settles O26: the buffers after the command still agree outside the bytes of IN at or above IN_LEN. -/
theorem commandsReadOnlyThePacket : Obligations.CommandsReadOnlyThePacket := by
  intro i s t m hm hx
  obtain ⟨t', hx', m', rfl, hm'⟩ := exec_withMem (m := m) hm hx
  exact ⟨_, hx', rfl, hm'⟩

end Sys2Proof.Machine
end

section
/-! PROOFS. The encoding of 30_encoding.md: the words of the opcode table and the illegal words (R52 to R57), the
assembler's lines (R58) and the sizes of the FEC packets (R68). -/

namespace Sys2Proof

/-! ### A legal word is the word of the command it decodes to (R52, R55) -/

/-- The command's operands fit their fields, and the word is the command's own (R52). -/
def Spells (w : Word) (i : Instr) : Prop := WellFormed i ∧ encode i = w

theorem eq_mkWord_of_opField {w : Word} {op : Nat} (hop : (opField w).toNat = op) :
    w = mkWord (BitVec.ofNat 8 op) (aField w) (bField w) := by
  rw [← hop, BitVec.ofNat_toNat, BitVec.setWidth_eq, mkWord_fields]

/-! A legal word of each format is the word of the command decoded from it. -/

section Formats

variable {w : Word} {op a : Byte} {b : Half} {reg j : Instr}

theorem spells_of_decodeZ (hw : w = mkWord op a b) (hreg : Spells (mkWord op 0 0) reg)
    (h : decodeZ a b reg = .ok j) : Spells w j := by
  obtain ⟨rfl, rfl, rfl⟩ := decodeZ_eq_ok.1 h
  exact hw ▸ hreg

theorem spells_of_decodeL {f : Limit → Instr} (hw : w = mkWord op a b)
    (hf : ∀ lim, Spells (mkWord op (limField lim) 0) (f lim))
    (h : decodeL a b f = .ok j) : Spells w j := by
  obtain ⟨rfl, lim, rfl, rfl⟩ := decodeL_eq_ok.1 h
  exact hw ▸ hf lim

theorem spells_of_decodeP {f : Byte → Instr} (hw : w = mkWord op a b)
    (hf : ∀ pt, ptFits pt → Spells (mkWord op pt 0) (f pt))
    (h : decodeP a b f = .ok j) : Spells w j := by
  obtain ⟨rfl, ha, rfl⟩ := decodeP_eq_ok.1 h
  exact hw ▸ hf a ha

theorem spells_of_decodeO {imm : Byte → Instr} (hw : w = mkWord op a b)
    (himm : ∀ ofs, ofsFits ofs → Spells (mkWord op ofs 0) (imm ofs))
    (hreg : Spells (mkWord op 0x80 0) reg)
    (h : decodeO a b imm reg = .ok j) : Spells w j := by
  obtain ⟨rfl, ⟨rfl, rfl⟩ | ⟨ha, rfl⟩⟩ := decodeO_eq_ok.1 h
  · exact hw ▸ hreg
  · exact hw ▸ himm a ha

theorem spells_of_decodeG {imm : Byte → Half → Instr} (hw : w = mkWord op a b)
    (himm : ∀ gs mo, gsFits gs → Spells (mkWord op gs mo) (imm gs mo))
    (hreg : Spells (mkWord op 0x80 0) reg)
    (h : decodeG a b imm reg = .ok j) : Spells w j := by
  obtain ⟨rfl, rfl, rfl⟩ | ⟨ha, rfl⟩ := decodeG_eq_ok.1 h
  · exact hw ▸ hreg
  · exact hw ▸ himm a b ha

theorem spells_of_decodeN {imm : Half → Instr} (hw : w = mkWord op a b)
    (himm : ∀ n, Spells (mkWord op 0 n) (imm n)) (hreg : Spells (mkWord op 0x80 0) reg)
    (h : decodeN a b imm reg = .ok j) : Spells w j := by
  obtain ⟨rfl, rfl, rfl⟩ | ⟨rfl, rfl⟩ := decodeN_eq_ok.1 h
  · exact hw ▸ hreg
  · exact hw ▸ himm b

end Formats

/-- A legal word is the word of the well-formed command it decodes to: one case per opcode of R55, by its format. -/
theorem spells_of_decode {w : Word} {i : Instr} (h : decode w = .ok i) : Spells w i := by
  simp only [decode] at h
  split at h
  case h_24 => cases h -- an unassigned opcode
  all_goals have hw := eq_mkWord_of_opField ‹_›
  -- Formats P (CTX_NEW), L (the folds, RTP_PARSE), O (SET, CLRB, TEST), G (ISLONG), N (SN_*), and Z for the rest.
  case h_2 => exact spells_of_decodeP hw (fun _ hpt => ⟨hpt, rfl⟩) h
  case h_5 | h_6 | h_7 | h_20 => exact spells_of_decodeL hw (fun _ => ⟨trivial, rfl⟩) h
  case h_9 | h_10 | h_11 =>
    exact spells_of_decodeO hw (fun _ hofs => ⟨hofs, rfl⟩) ⟨trivial, rfl⟩ h
  case h_14 => exact spells_of_decodeG hw (fun _ _ hgs => ⟨hgs, rfl⟩) ⟨trivial, rfl⟩ h
  case h_17 | h_18 | h_19 =>
    exact spells_of_decodeN hw (fun _ => ⟨trivial, rfl⟩) ⟨trivial, rfl⟩ h
  all_goals exact spells_of_decodeZ hw ⟨trivial, rfl⟩ h

/-- The form's row is spelled by the command's own word (`Laws.SpellsRow`, one lemma per command). -/
theorem spellsRow (i : Instr) : Laws.SpellsRow.Statement i := by
  cases i with
  | nop => exact Laws.SpellsRow.nop
  | ctxNew pt => exact Laws.SpellsRow.ctxNew pt
  | statClr => exact Laws.SpellsRow.statClr
  | accClr => exact Laws.SpellsRow.accClr
  | accFoldHdr lim => exact Laws.SpellsRow.accFoldHdr lim
  | accFoldPay lim => exact Laws.SpellsRow.accFoldPay lim
  | accFold lim => exact Laws.SpellsRow.accFold lim
  | maskClr => exact Laws.SpellsRow.maskClr
  | maskSetImm ofs => exact Laws.SpellsRow.maskSetImm ofs
  | maskSetOff => exact Laws.SpellsRow.maskSetOff
  | maskClrbImm ofs => exact Laws.SpellsRow.maskClrbImm ofs
  | maskClrbOff => exact Laws.SpellsRow.maskClrbOff
  | maskTestImm ofs => exact Laws.SpellsRow.maskTestImm ofs
  | maskTestOff => exact Laws.SpellsRow.maskTestOff
  | maskCnt => exact Laws.SpellsRow.maskCnt
  | maskFirst => exact Laws.SpellsRow.maskFirst
  | maskIslongImm gs mo => exact Laws.SpellsRow.maskIslongImm gs mo
  | maskIslongAcc => exact Laws.SpellsRow.maskIslongAcc
  | maskEnc => exact Laws.SpellsRow.maskEnc
  | maskDec => exact Laws.SpellsRow.maskDec
  | snOffImm sn => exact Laws.SpellsRow.snOffImm sn
  | snOffRtp => exact Laws.SpellsRow.snOffRtp
  | snAddImm k => exact Laws.SpellsRow.snAddImm k
  | snAddOff => exact Laws.SpellsRow.snAddOff
  | snSetbaseImm sn => exact Laws.SpellsRow.snSetbaseImm sn
  | snSetbaseRtp => exact Laws.SpellsRow.snSetbaseRtp
  | rtpParse lim => exact Laws.SpellsRow.rtpParse lim
  | fecAsm => exact Laws.SpellsRow.fecAsm
  | fecParse => exact Laws.SpellsRow.fecParse
  | recover => exact Laws.SpellsRow.recover

/-- A legal word spells the row of the form it decodes to (R56). -/
theorem spelledBy_of_decode {w : Word} {i : Instr} (h : decode w = .ok i) :
    (formRow i).spelledBy w = true := by
  obtain ⟨hwf, rfl⟩ := spells_of_decode h
  exact (spellsRow i hwf _ (formRow_mem i)).2 rfl

/-! ### A word that spells a row is legal (R56, R57) -/

/-- A row that fixes every bit is spelled by its pattern only. -/
theorem eq_pattern_of_spelledBy {p w : Word} (h : FormRow.spelledBy ⟨p, 0xFFFFFFFF⟩ w = true) :
    w = p := by
  have hones : (0xFFFFFFFF : Word) = BitVec.allOnes 32 := by decide
  simpa only [FormRow.spelledBy, beq_iff_eq, hones, BitVec.and_allOnes] using h

/-- The words of a row that fixes `OP` and has every other fixed bit 0 (the converse of `spelledBy_mkWord`). -/
theorem fields_of_spelledBy {op m1 : Byte} {m2 : Half} {w : Word}
    (h : FormRow.spelledBy ⟨mkWord op 0 0, mkWord 0xFF m1 m2⟩ w = true) :
    opField w = op ∧ aField w &&& m1 = 0 ∧ bField w &&& m2 = 0 := by
  have hones : (0xFF : Byte) = BitVec.allOnes 8 := by decide
  have hw : mkWord (opField w) (aField w) (bField w) &&& mkWord 0xFF m1 m2 = mkWord op 0 0 := by
    simpa only [mkWord_fields, FormRow.spelledBy, beq_iff_eq] using h
  simpa only [mkWord_and, mkWord_inj, hones, BitVec.and_allOnes] using hw

theorem and_0xFFFF (b : Half) : b &&& 0xFFFF = b := by
  rw [show (0xFFFF : Half) = BitVec.allOnes 16 by decide, BitVec.and_allOnes]

theorem fits_of_and_0xC0 : ∀ a : Byte, a &&& 0xC0 = 0 → ofsFits a := by decide

theorem eq_zero_of_and_0xFF : ∀ a : Byte, a &&& 0xFF = 0 → a = 0 := by decide

/-! A word that spells a row of each format, whose opcode selects that format, is legal. -/

section Rows

variable {w : Word} {op : Byte}

theorem decode_of_rowP {f : Byte → Instr}
    (h : FormRow.spelledBy ⟨mkWord op 0 0, mkWord 0xFF 0x80 0xFFFF⟩ w = true)
    (hdec : opField w = op → decode w = decodeP (aField w) (bField w) f) : ∃ j, decode w = .ok j := by
  obtain ⟨hop, ha, hb⟩ := fields_of_spelledBy h
  rw [and_0xFFFF] at hb
  rw [hdec hop]
  exact ⟨_, decodeP_eq_ok.2 ⟨hb, (top_clear_iff _).1 ha, rfl⟩⟩

theorem decode_of_rowL {f : Limit → Instr}
    (h : FormRow.spelledBy ⟨mkWord op 0 0, mkWord 0xFF 0xFE 0xFFFF⟩ w = true)
    (hdec : opField w = op → decode w = decodeL (aField w) (bField w) f) : ∃ j, decode w = .ok j := by
  obtain ⟨hop, ha, hb⟩ := fields_of_spelledBy h
  rw [and_0xFFFF] at hb
  rw [hdec hop]
  exact ⟨_, decodeL_eq_ok.2 ⟨hb, _, (limField_of_bit _ ha).symm, rfl⟩⟩

theorem decode_of_rowO {imm : Byte → Instr} {reg : Instr}
    (h : FormRow.spelledBy ⟨mkWord op 0 0, mkWord 0xFF 0xC0 0xFFFF⟩ w = true)
    (hdec : opField w = op → decode w = decodeO (aField w) (bField w) imm reg) :
    ∃ j, decode w = .ok j := by
  obtain ⟨hop, ha, hb⟩ := fields_of_spelledBy h
  rw [and_0xFFFF] at hb
  rw [hdec hop]
  exact ⟨_, decodeO_eq_ok.2 ⟨hb, .inr ⟨fits_of_and_0xC0 _ ha, rfl⟩⟩⟩

theorem decode_of_rowG {imm : Byte → Half → Instr} {reg : Instr}
    (h : FormRow.spelledBy ⟨mkWord op 0 0, mkWord 0xFF 0x80 0⟩ w = true)
    (hdec : opField w = op → decode w = decodeG (aField w) (bField w) imm reg) :
    ∃ j, decode w = .ok j := by
  obtain ⟨hop, ha, -⟩ := fields_of_spelledBy h
  rw [hdec hop]
  exact ⟨_, decodeG_eq_ok.2 (.inr ⟨(top_clear_iff _).1 ha, rfl⟩)⟩

theorem decode_of_rowN {imm : Half → Instr} {reg : Instr}
    (h : FormRow.spelledBy ⟨mkWord op 0 0, mkWord 0xFF 0xFF 0⟩ w = true)
    (hdec : opField w = op → decode w = decodeN (aField w) (bField w) imm reg) :
    ∃ j, decode w = .ok j := by
  obtain ⟨hop, ha, -⟩ := fields_of_spelledBy h
  rw [hdec hop]
  exact ⟨_, decodeN_eq_ok.2 (.inr ⟨eq_zero_of_and_0xFF _ ha, rfl⟩)⟩

end Rows

/-- A word that spells the row of a form is legal: a row without an operand has one word, and a row with one accepts
every value of the operand's bits. -/
theorem decode_of_spelledBy (i : Instr) {w : Word} (h : (formRow i).spelledBy w = true) :
    ∃ j, decode w = .ok j := by
  cases i with
  | ctxNew => exact decode_of_rowP (op := 0x01) (f := .ctxNew) h fun hop => by simp only [decode, hop]; rfl
  | accFoldHdr =>
    exact decode_of_rowL (op := 0x11) (f := .accFoldHdr) h fun hop => by simp only [decode, hop]; rfl
  | accFoldPay =>
    exact decode_of_rowL (op := 0x12) (f := .accFoldPay) h fun hop => by simp only [decode, hop]; rfl
  | accFold =>
    exact decode_of_rowL (op := 0x13) (f := .accFold) h fun hop => by simp only [decode, hop]; rfl
  | maskSetImm =>
    exact decode_of_rowO (op := 0x21) (imm := .maskSetImm) (reg := .maskSetOff) h fun hop => by
      simp only [decode, hop]; rfl
  | maskClrbImm =>
    exact decode_of_rowO (op := 0x22) (imm := .maskClrbImm) (reg := .maskClrbOff) h fun hop => by
      simp only [decode, hop]; rfl
  | maskTestImm =>
    exact decode_of_rowO (op := 0x23) (imm := .maskTestImm) (reg := .maskTestOff) h fun hop => by
      simp only [decode, hop]; rfl
  | maskIslongImm =>
    exact decode_of_rowG (op := 0x26) (imm := .maskIslongImm) (reg := .maskIslongAcc) h fun hop => by
      simp only [decode, hop]; rfl
  | snOffImm =>
    exact decode_of_rowN (op := 0x30) (imm := .snOffImm) (reg := .snOffRtp) h fun hop => by
      simp only [decode, hop]; rfl
  | snAddImm =>
    exact decode_of_rowN (op := 0x31) (imm := .snAddImm) (reg := .snAddOff) h fun hop => by
      simp only [decode, hop]; rfl
  | snSetbaseImm =>
    exact decode_of_rowN (op := 0x32) (imm := .snSetbaseImm) (reg := .snSetbaseRtp) h fun hop => by
      simp only [decode, hop]; rfl
  | rtpParse =>
    exact decode_of_rowL (op := 0x40) (f := .rtpParse) h fun hop => by simp only [decode, hop]; rfl
  | _ => obtain rfl := eq_pattern_of_spelledBy h; exact ⟨_, rfl⟩

/-- A word is legal exactly when it spells a row of the table (R56). -/
theorem legal_iff_spelledBy {w : Word} :
    (∃ i, decode w = .ok i) ↔ ∃ r ∈ opcodeTable, r.spelledBy w = true := by
  constructor
  · rintro ⟨i, h⟩
    exact ⟨_, formRow_mem i, spelledBy_of_decode h⟩
  · rintro ⟨r, hr, h⟩
    obtain ⟨i, -, rfl⟩ := List.mem_map.1 hr
    exact decode_of_spelledBy i h

/-- Settles O3: a legal word spells its own form's row, a word that spells a row decodes, and no two rows share a
word. -/
theorem legalWordsSpellOneTableRow : Obligations.LegalWordsSpellOneTableRow := fun _ =>
  ⟨legal_iff_spelledBy, fun i h => ⟨formRow_mem i, spelledBy_of_decode h⟩,
    fun _ hr _ hr' => spelledBy_unique hr hr'⟩

/-- Settles O4: the decoder evaluated on each word. -/
theorem writtenOutWordsDecode : Obligations.WrittenOutWordsDecode :=
  ⟨rfl, rfl, rfl, rfl, rfl, rfl, rfl, rfl, rfl, rfl, rfl, rfl⟩

end Sys2Proof

namespace Sys2Proof.Machine

/-! ### Illegal words (R57) -/

/-- A word that spells no row decodes to no command. -/
theorem decode_error_of_no_row {w : Word} (h : ∀ r ∈ opcodeTable, r.spelledBy w = false) :
    ∃ e, decode w = .error e := by
  cases hd : decode w with
  | error e => exact ⟨e, rfl⟩
  | ok i => exact absurd (spelledBy_of_decode hd) (by simp [h _ (formRow_mem i)])

/-- Settles O7: the word decodes to no command, so the step takes the error ILLEGAL_CMD. -/
theorem illegalWordRaisesIllegalCmd : Obligations.IllegalWordRaisesIllegalCmd := by
  intro s rest d hs h
  obtain ⟨e, hd⟩ := decode_error_of_no_row h
  rw [step_command hs rfl, runCommand, hd]
  exact congrArg _ (raiseErr_eq_errorRecord d .illegalCmd _)

/-! ### The operands of a line (R58) -/

/-! The operand tokens that each format's assembler accepts, and the command it gives. -/

section Operands

variable {ops : List AsmOperand} {reg j : Instr}

theorem asmZ_eq_some : asmZ reg ops = some j ↔ ops = [] ∧ j = reg := by
  constructor
  · intro h
    unfold asmZ at h
    split at h
    · exact ⟨rfl, (Option.some.inj h).symm⟩
    · cases h
  · rintro ⟨rfl, rfl⟩
    rfl

theorem asmL_eq_some {f : Limit → Instr} :
    asmL f ops = some j ↔ ∃ lim, ops = [limOperand lim] ∧ j = f lim := by
  constructor
  · intro h
    unfold asmL at h
    split at h
    · exact ⟨.enc, rfl, (Option.some.inj h).symm⟩
    · exact ⟨.dec, rfl, (Option.some.inj h).symm⟩
    · cases h
  · rintro ⟨lim, rfl, rfl⟩
    cases lim <;> rfl

theorem asmP_eq_some {f : Byte → Instr} :
    asmP f ops = some j ↔ ∃ pt, ptFits pt ∧ ops = [.imm pt.toNat] ∧ j = f pt := by
  constructor
  · intro h
    unfold asmP at h
    split at h
    · next n =>
      split at h
      · next hn =>
        have hpt : (BitVec.ofNat 8 n).toNat = n := Nat.mod_eq_of_lt (by omega)
        exact ⟨BitVec.ofNat 8 n, by unfold ptFits; omega, by rw [hpt], (Option.some.inj h).symm⟩
      · cases h
    · cases h
  · rintro ⟨pt, hpt, rfl, rfl⟩
    rw [asmP, if_pos (by unfold ptFits at hpt; omega), BitVec.ofNat_toNat, BitVec.setWidth_eq]

theorem asmO_eq_some {imm : Byte → Instr} :
    asmO imm reg ops = some j ↔
      (ops = [.off] ∧ j = reg) ∨ ∃ ofs, ofsFits ofs ∧ ops = [.imm ofs.toNat] ∧ j = imm ofs := by
  constructor
  · intro h
    unfold asmO at h
    split at h
    · next n =>
      split at h
      · next hn =>
        have hofs : (BitVec.ofNat 8 n).toNat = n := Nat.mod_eq_of_lt (by omega)
        exact .inr ⟨BitVec.ofNat 8 n, by unfold ofsFits; omega, by rw [hofs], (Option.some.inj h).symm⟩
      · cases h
    · exact .inl ⟨rfl, (Option.some.inj h).symm⟩
    · cases h
  · rintro (⟨rfl, rfl⟩ | ⟨ofs, hofs, rfl, rfl⟩)
    · rfl
    · rw [asmO, if_pos (by unfold ofsFits at hofs; omega), BitVec.ofNat_toNat, BitVec.setWidth_eq]

theorem asmG_eq_some {imm : Byte → Half → Instr} :
    asmG imm reg ops = some j ↔
      (ops = [.acc] ∧ j = reg) ∨
        ∃ gs mo, gsFits gs ∧ ops = [.imm gs.toNat, .imm mo.toNat] ∧ j = imm gs mo := by
  constructor
  · intro h
    unfold asmG at h
    split at h
    · next g m =>
      split at h
      · next hgm =>
        obtain ⟨hg, hm⟩ := hgm
        have hgs : (BitVec.ofNat 8 g).toNat = g := Nat.mod_eq_of_lt (by omega)
        have hmo : (BitVec.ofNat 16 m).toNat = m := Nat.mod_eq_of_lt (by omega)
        exact .inr ⟨BitVec.ofNat 8 g, BitVec.ofNat 16 m, by unfold gsFits; omega, by rw [hgs, hmo],
          (Option.some.inj h).symm⟩
      · cases h
    · exact .inl ⟨rfl, (Option.some.inj h).symm⟩
    · cases h
  · rintro (⟨rfl, rfl⟩ | ⟨gs, mo, hgs, rfl, rfl⟩)
    · rfl
    · rw [asmG, if_pos (by unfold gsFits at hgs; omega), BitVec.ofNat_toNat, BitVec.setWidth_eq,
        BitVec.ofNat_toNat, BitVec.setWidth_eq]

theorem asmN_eq_some {imm : Half → Instr} {name : AsmOperand} (hname : ∀ n, name ≠ .imm n) :
    asmN imm name reg ops = some j ↔
      (ops = [name] ∧ j = reg) ∨ ∃ n : Half, ops = [.imm n.toNat] ∧ j = imm n := by
  constructor
  · intro h
    unfold asmN at h
    split at h
    · next n =>
      split at h
      · next hn =>
        have hv : (BitVec.ofNat 16 n).toNat = n := Nat.mod_eq_of_lt (by omega)
        exact .inr ⟨BitVec.ofNat 16 n, by rw [hv], (Option.some.inj h).symm⟩
      · cases h
    · split at h
      · next ho => exact .inl ⟨by rw [ho], (Option.some.inj h).symm⟩
      · cases h
    · cases h
  · rintro (⟨rfl, rfl⟩ | ⟨n, rfl, rfl⟩)
    · cases name with
      | imm n => exact absurd rfl (hname n)
      | _ => simp [asmN]
    · rw [asmN, if_pos (by omega), BitVec.ofNat_toNat, BitVec.setWidth_eq]

end Operands

/-! ### The lines (R58) -/

/-- A well-formed command's line assembles to the command: every operand that fits is read back. -/
theorem assemble_asmLine {i : Instr} (h : WellFormed i) : assemble (asmLine i) = some i := by
  cases i with
  | ctxNew pt => exact asmP_eq_some.2 ⟨pt, h, rfl, rfl⟩
  | accFoldHdr lim | accFoldPay lim | accFold lim | rtpParse lim =>
    exact asmL_eq_some.2 ⟨lim, rfl, rfl⟩
  | maskSetImm ofs | maskClrbImm ofs | maskTestImm ofs =>
    simp only [assemble, asmLine]
    exact asmO_eq_some.2 (.inr ⟨ofs, h, rfl, rfl⟩)
  | maskIslongImm gs mo =>
    simp only [assemble, asmLine]
    exact asmG_eq_some.2 (.inr ⟨gs, mo, h, rfl, rfl⟩)
  | snOffImm n | snAddImm n | snSetbaseImm n =>
    simp only [assemble, asmLine]
    exact (asmN_eq_some (by simp)).2 (.inr ⟨n, rfl, rfl⟩)
  | _ => rfl

/-- A line that assembles is the line of the well-formed command it gives: one case per mnemonic, by its operands. -/
theorem asmLine_of_assemble {l : AsmLine} {i : Instr} (h : assemble l = some i) :
    WellFormed i ∧ asmLine i = l := by
  obtain ⟨mnemonic, ops⟩ := l
  simp only [assemble] at h
  split at h
  -- Operands `#pt`, `enc|dec`, `#ofs|OFF`, `#gs, #mo|ACC`, `#n|OFF` or `#n|RTP`, and none for the rest.
  case h_2 =>
    obtain ⟨pt, hpt, rfl, rfl⟩ := asmP_eq_some.1 h
    exact ⟨hpt, rfl⟩
  case h_5 | h_6 | h_7 | h_20 =>
    obtain ⟨lim, rfl, rfl⟩ := asmL_eq_some.1 h
    exact ⟨trivial, rfl⟩
  case h_9 | h_10 | h_11 =>
    obtain ⟨rfl, rfl⟩ | ⟨ofs, hofs, rfl, rfl⟩ := asmO_eq_some.1 h
    · exact ⟨trivial, rfl⟩
    · exact ⟨hofs, rfl⟩
  case h_14 =>
    obtain ⟨rfl, rfl⟩ | ⟨gs, mo, hgs, rfl, rfl⟩ := asmG_eq_some.1 h
    · exact ⟨trivial, rfl⟩
    · exact ⟨hgs, rfl⟩
  case h_17 | h_18 | h_19 =>
    obtain ⟨rfl, rfl⟩ | ⟨n, rfl, rfl⟩ := (asmN_eq_some (by simp)).1 h <;> exact ⟨trivial, rfl⟩
  case h_24 => cases h -- no mnemonic
  all_goals
    obtain ⟨rfl, rfl⟩ := asmZ_eq_some.1 h
    exact ⟨trivial, rfl⟩

/-- Settles O5: the assembler reads each operand back, and reads no line but a command's own. -/
theorem assembleAgreesWithSyntax : Obligations.AssembleAgreesWithSyntax :=
  ⟨fun _ => assemble_asmLine, fun _ _ => asmLine_of_assemble⟩

/-! ### The sizes of the FEC packets (R68) -/

theorem unpaddedLen_short_or_long (long : Bool) (prot : Nat) :
    unpaddedLen long prot = (if long then 30 else 26) + prot := by
  cases long <;> rfl

/-- The length under ALIGN is the unpadded length rounded up to a multiple of 4. -/
theorem fecPacket_align_length (loc : Config.PadFlagLoc) (s : State) :
    (fecPacket .align loc s).length = 4 * ((unpaddedLen s.islong s.pmax.toNat + 3) / 4) := by
  rw [fecPacket_length, fecPacketLen_align, padCount]
  omega

/-- Settles O50: every size is that of the unpadded length, 26 or 30 more than PMAX, rounded up. -/
theorem fecPacketSizes : Obligations.FecPacketSizes := by
  intro loc s
  rw [fecPacket_align_length, unpaddedLen_short_or_long]
  refine ⟨rfl, rfl, ?_, ?_, ?_, ?_⟩
  · split <;> omega
  · intro hshort hp
    simp [hshort, hp]
  · intro hp
    split <;> omega
  · intro hlong hp
    simp [hlong, hp]

end Sys2Proof.Machine
end

section
/-! PROOFS. The control and context commands of 41_control.md (R69 to R71): what they leave of STATUS and of the
context. -/

namespace Sys2Proof.Machine

/-! ### What clearing leaves of STATUS (R27) -/

theorem getLsbD_allButErr : ∀ k < 32, (0xFFFFFFF0 : Word).getLsbD k = decide (4 ≤ k) := by decide

theorem getLsbD_lowByte : ∀ k < 32, (0x000000FF : Word).getLsbD k = decide (k < 8) := by decide

/-- `finish()` clears ERR in STATUS and no other bit (R107). -/
theorem regWord_status_finish (s : State) :
    regWord (finish s) 0x0004 = regWord s 0x0004 &&& 0xFFFFFFF0 := by
  apply BitVec.eq_of_getLsbD_eq
  intro k hk
  rw [BitVec.getLsbD_and, getLsbD_allButErr k hk, statusWordLayout s k hk,
    statusWordLayout (finish s) k hk]
  by_cases herr : k < 4
  · simp [herr]
  · simp [herr, Nat.le_of_not_lt herr]

/-- Clearing the error record clears BUSERR and STICKY, the only bits of STATUS above 7:0 (R71). -/
theorem regWord_status_clearErrorRecord (s : State) :
    regWord (clearErrorRecord s) 0x0004 = regWord s 0x0004 &&& 0x000000FF := by
  apply BitVec.eq_of_getLsbD_eq
  intro k hk
  rw [BitVec.getLsbD_and, getLsbD_lowByte k hk, statusWordLayout s k hk,
    statusWordLayout (clearErrorRecord s) k hk]
  by_cases hlow : k < 8
  · simp [hlow, show k ≠ 8 by omega, show k ≠ 15 by omega]
  · simp [hlow, show ¬ k < 4 by omega, show k ≠ 4 by omega, show k ≠ 5 by omega,
      show k ≠ 6 by omega, show k ≠ 7 by omega]

/-- Both together keep exactly NONE, INWIN, ISFEC and BIT of STATUS. -/
theorem regWord_status_finish_clearErrorRecord (s : State) :
    regWord (finish (clearErrorRecord s)) 0x0004 = regWord s 0x0004 &&& 0x000000F0 := by
  rw [regWord_status_finish, regWord_status_clearErrorRecord, BitVec.and_assoc]
  rfl

/-! ### The three commands -/

/-- The word of CTX_NEW has the payload type from bit 16 on (R70). -/
theorem encode_ctxNew_toNat (pt : Byte) :
    (encode (.ctxNew pt)).toNat = 0x01000000 + 65536 * pt.toNat :=
  mkWord_toNat 0x01 pt 0

theorem exec_nop (s : State) : exec .nop s = .next (finish s) :=
  exec_of_body_ok rfl

theorem exec_ctxNew (pt : Byte) (s : State) :
    exec (.ctxNew pt) s = .next (finish { s with fecPt := ptOperand pt, fecSeq := 0 }) :=
  exec_of_body_ok rfl

theorem exec_statClr (s : State) : exec .statClr s = .next (finish (clearErrorRecord s)) :=
  exec_of_body_ok rfl

/-- A new context shows in CTX as its payload type alone, the sequence number in bits 31:16 being 0 (R36, R70). -/
theorem regWord_ctx_of_fecSeq_zero {t : State} (h : t.fecSeq = 0) :
    (regWord t 0x0018).toNat = t.fecPt.toNat := by
  rw [regWord_ctx_toNat, h]
  rfl

/-- Settles O27: each command finishes its updates in every state, and the words of STATUS and CTX follow. -/
theorem controlCommandsResult : Obligations.ControlCommandsResult := by
  refine ⟨rfl, rfl, fun s pt => ⟨encode_ctxNew_toNat pt, ?nop, fun hwf => ?ctxNew, ?statClr⟩⟩
  case nop => exact ⟨_, exec_nop s, regWord_status_finish s, rfl⟩
  case ctxNew =>
    have hpt : (ptOperand pt).toNat = pt.toNat := ptOperand_toNat pt hwf
    exact ⟨_, exec_ctxNew pt s, hpt, rfl, (regWord_ctx_of_fecSeq_zero rfl).trans hpt, rfl⟩
  case statClr =>
    exact ⟨_, exec_statClr s, regWord_status_finish_clearErrorRecord s, rfl, rfl⟩

end Sys2Proof.Machine
end

section
/-! PROOFS. The accumulator of 42_accumulator.md (R72 to R76): the shared length check, the two folds one by one and
in either order, and a packet folded twice. -/

namespace Sys2Proof.Machine

/-! ### The length check (R72) -/

section LengthCheck

variable {lim : Limit} {i : Instr} {f : Nat → State → State} {s : State}

/-- A command that starts with the length check makes its updates for a packet of legal length. -/
theorem exec_of_packetOk (hb : body i s = checkedFold lim f s) (h : PacketOk lim s) :
    exec i s = .next (finish (f s.inLen.toNat s)) := by
  obtain ⟨hmin, hmax⟩ := (packetOk_iff lim s).1 h
  exact exec_of_body_ok (hb.trans (checkedFold_eq_ok.2 ⟨hmin, hmax, rfl⟩))

/-- A command that starts with the length check writes only the error record for any other length. -/
theorem exec_of_not_packetOk (hb : body i s = checkedFold lim f s) (h : ¬ PacketOk lim s) :
    exec i s = .next (errorRecord (encode i) 2 s) := by
  have hlen : s.inLen.toNat < 12 ∨ limitOf lim < s.inLen.toNat := by
    rw [packetOk_iff] at h; omega
  exact exec_of_body_error (hb.trans (checkedFold_eq_error.2 ⟨hlen, rfl⟩))

end LengthCheck

/-- The commands with a LIM bit are those that start with the length check. -/
theorem body_eq_checkedFold {lim : Limit} {i : Instr}
    (h : i ∈ [Instr.accFoldHdr lim, .accFoldPay lim, .accFold lim, .rtpParse lim]) :
    ∃ f, ∀ s, body i s = checkedFold lim f s := by
  simp only [List.mem_cons, List.not_mem_nil, or_false] at h
  obtain rfl | rfl | rfl | rfl := h
  · exact ⟨foldHdr, fun _ => rfl⟩
  · exact ⟨foldPay, fun _ => rfl⟩
  · exact ⟨fun len t => foldPay len (foldHdr len t), fun _ => rfl⟩
  · exact ⟨rtpFields, fun _ => rfl⟩

/-- Settles O33: the four commands share the length check, which decides between success and INVALID_LEN. -/
theorem lengthCheckRaisesInvalidLen : Obligations.LengthCheckRaisesInvalidLen := by
  intro lim s i hi
  obtain ⟨f, hb⟩ := body_eq_checkedFold hi
  exact ⟨exec_of_not_packetOk (hb s), fun h => ⟨_, exec_of_packetOk (hb s) h, finish_err _⟩⟩

/-! ### Emptying the accumulator (R73) -/

theorem exec_accClr (s : State) : exec .accClr s = .next (finish (accCleared s)) :=
  exec_of_body_ok rfl

theorem accCleared_hacc_getElem (s : State) (k : Nat) (h : k < 10) : (accCleared s).hacc[k] = 0 :=
  Vector.getElem_replicate h

/-- Settles O29: the cleared accumulator, and the bytes as `byteAt_accCleared` gives them. -/
theorem accClrEmptiesTheAccumulator : Obligations.AccClrEmptiesTheAccumulator := by
  have e : Config.paccBase = 0x3000 := rfl
  refine ⟨rfl, fun s => ⟨_, exec_accClr s, accCleared_hacc_getElem s, fun j hj => ?_,
    fun a ha => ?_, rfl⟩⟩
  · rw [paccByte_finish, paccByte, byteAt_accCleared, if_pos (by omega)]
  · rw [byteAt_finish, byteAt_accCleared, if_neg ha]

/-! ### The header fold (R74) -/

theorem exec_accFoldHdr {lim : Limit} {s : State} (h : PacketOk lim s) :
    exec (.accFoldHdr lim) s = .next (finish (foldHdr s.inLen.toNat s)) :=
  exec_of_packetOk rfl h

/-- The byte that a header fold XORs into `HACC[k]`, for a payload of `l` bytes: a header byte, or a byte of the
payload's length. -/
def foldedByte (l : Half) (s : State) (k : Nat) : Byte :=
  if k < 8 then inByte s k else if k = 8 then hiByte l else loByte l

theorem haccFolded_getElem (l : Half) (s : State) (k : Nat) (h : k < 10) :
    (haccFolded l s)[k] = s.hacc[k] ^^^ foldedByte l s k := by
  interval_cases k <;> rfl

/-- XOR acts on a big-endian pair byte by byte. -/
theorem be16_xor (a b c d : Byte) : be16 (a ^^^ c) (b ^^^ d) = be16 a b ^^^ be16 c d :=
  BitVec.xor_append.symm

/-- The last two bytes of HACC take the payload's length as one big-endian value. -/
theorem be16_haccFolded (l : Half) (s : State) :
    be16 (haccFolded l s)[8] (haccFolded l s)[9] = be16 s.hacc[8] s.hacc[9] ^^^ l := by
  calc be16 (haccFolded l s)[8] (haccFolded l s)[9]
      = be16 (s.hacc[8] ^^^ hiByte l) (s.hacc[9] ^^^ loByte l) := rfl
    _ = be16 s.hacc[8] s.hacc[9] ^^^ l := by rw [be16_xor, be16_hi_lo]

/-- FCNT counts up to 255 and stays there. -/
theorem fcntNext_toNat (c : Byte) : (fcntNext c).toNat = min (c.toNat + 1) 255 := by
  rw [fcntNext, BitVec.toNat_ofNat, Nat.mod_eq_of_lt (by omega)]

/-- The group's base after a header fold is the one it had, or else the packet's sequence number. -/
theorem foldHdr_snbase_toNat (len : Nat) (s : State) :
    (foldHdr len s).snbase.toNat = if s.snbValid then s.snbase.toNat
      else 256 * (inByte s 2).toNat + (inByte s 3).toNat := by
  rw [foldHdr_snbase, apply_ite BitVec.toNat, inBE16, be16_toNat]

/-- Settles O30: the updates of `foldHdr` after the length check. -/
theorem accFoldHdrResult : Obligations.AccFoldHdrResult := by
  refine ⟨rfl, rfl, fun lim s => ⟨exec_of_not_packetOk rfl, fun h =>
    ⟨_, exec_accFoldHdr h, fun k hk => ?_, be16_haccFolded _ s, foldHdr_snbase_toNat s.inLen.toNat s,
      rfl, rfl, rfl, fcntNext_toNat s.fcnt, fun _ => rfl, rfl⟩⟩⟩
  have hbyte := haccFolded_getElem (BitVec.ofNat 16 (s.inLen.toNat - Config.hdrLen)) s k (by omega)
  rwa [foldedByte, if_pos hk] at hbyte

/-! ### The payload fold (R75) -/

theorem exec_accFoldPay {lim : Limit} {s : State} (h : PacketOk lim s) :
    exec (.accFoldPay lim) s = .next (finish (foldPay s.inLen.toNat s)) :=
  exec_of_packetOk rfl h

/-- A packet of legal length is at most as long as IN. -/
theorem PacketOk.inLen_le {lim : Limit} {s : State} (h : PacketOk lim s) : s.inLen.toNat ≤ 1472 :=
  ((packetOk_iff lim s).1 h).2.trans (limitOf_le lim)

/-- Settles O31: the updates of `foldPay` after the length check. -/
theorem accFoldPayResult : Obligations.AccFoldPayResult := by
  have e : Config.paccBase = 0x3000 := rfl
  refine ⟨rfl, rfl, fun lim s => ⟨exec_of_not_packetOk rfl, fun h =>
    ⟨_, exec_accFoldPay h, fun j hj => ?_, fun a ha => ?_, foldPay_pmax_toNat h.inLen_le s, rfl⟩⟩⟩
  · rw [paccByte_finish, paccByte, byteAt_foldPay, if_pos (by omega), e, Nat.add_sub_cancel_left]
    rfl
  · rw [e] at ha
    rw [byteAt_finish, byteAt_foldPay, if_neg ha]

/-! ### Both folds (R76) -/

theorem exec_accFold {lim : Limit} {s : State} (h : PacketOk lim s) :
    exec (.accFold lim) s = .next (finish (foldPay s.inLen.toNat (foldHdr s.inLen.toNat s))) :=
  exec_of_body_ok (body_accFold_of_packetOk h)

/-- A payload fold leaves every byte of IN, which lies below PACC. -/
theorem inByte_foldPay (len : Nat) (s : State) {i : Nat} (hi : i < 1472) :
    inByte (foldPay len s) i = inByte s i := by
  have e : Config.inBase = 0x1000 := rfl
  rw [inByte, byteAt_foldPay, if_neg (by omega)]
  rfl

/-- The two folds write different state and neither writes IN, so either may come first. -/
theorem foldHdr_foldPay (n m : Nat) (s : State) :
    foldHdr n (foldPay m s) = foldPay m (foldHdr n s) := by
  have hacc (l : Half) : haccFolded l (foldPay m s) = haccFolded l s := by
    simp (disch := omega) only [haccFolded, inByte_foldPay, foldPay_hacc]
  have hsn : inBE16 (foldPay m s) 2 = inBE16 s 2 := by
    simp (disch := omega) only [inBE16, inByte_foldPay]
  have hword {i : Nat} (hi : i < 1469) : inBE32 (foldPay m s) i = inBE32 s i := by
    simp (disch := omega) only [inBE32, inByte_foldPay]
  rw [foldHdr, hacc, hsn, hword (by omega), hword (by omega)]
  rfl

/-! No fold reads ERR, which `finish()` sets. -/

theorem foldHdr_finish (len : Nat) (s : State) : foldHdr len (finish s) = finish (foldHdr len s) := rfl

theorem foldPay_finish (len : Nat) (s : State) : foldPay len (finish s) = finish (foldPay len s) := rfl

theorem finish_finish (s : State) : finish (finish s) = finish s := rfl

/-- Settles O32: the second half starts from a finished state, and the folds commute (`foldHdr_foldPay`). -/
theorem accFoldIsBothFolds : Obligations.AccFoldIsBothFolds := by
  refine ⟨rfl, rfl, fun lim s => ⟨exec_of_not_packetOk (f := fun len t => foldPay len (foldHdr len t)) rfl,
    fun h => ?_⟩⟩
  have hpay := exec_accFoldPay (s := finish (foldHdr s.inLen.toNat s)) h
  rw [finish_inLen, foldHdr_inLen, foldPay_finish, finish_finish] at hpay
  have hhdr := exec_accFoldHdr (s := finish (foldPay s.inLen.toNat s)) h
  rw [finish_inLen, foldPay_inLen, foldHdr_finish, finish_finish, foldHdr_foldPay] at hhdr
  exact ⟨_, _, _, exec_accFold h, finish_err _, exec_accFoldHdr h, hpay, exec_accFoldPay h, hhdr⟩

/-! ### The same packet folded twice (R74 to R76) -/

/-- A header fold leaves the bytes that the next one XORs. -/
theorem foldedByte_foldHdr (l : Half) (len : Nat) (s : State) (k : Nat) :
    foldedByte l (foldHdr len s) k = foldedByte l s k := rfl

/-- The second header fold takes the first one's bytes out of HACC again. -/
theorem foldHdr_foldHdr_hacc (len : Nat) (s : State) : (foldHdr len (foldHdr len s)).hacc = s.hacc := by
  ext k hk : 1
  simp only [foldHdr_hacc, haccFolded_getElem, foldedByte_foldHdr, BitVec.xor_assoc, BitVec.xor_self,
    BitVec.xor_zero]

/-- Two header folds count 2. -/
theorem foldHdr_foldHdr_fcnt (n m : Nat) (s : State) :
    (foldHdr n (foldHdr m s)).fcnt.toNat = min (s.fcnt.toNat + 2) 255 := by
  rw [foldHdr_fcnt, foldHdr_fcnt, fcntNext_toNat, fcntNext_toNat]
  omega

/-- The second payload fold takes the first one's bytes out of PACC again. -/
theorem byteAt_foldPay_foldPay {len : Nat} (hlen : len ≤ 1472) (s : State) (a : Nat) :
    byteAt (foldPay len (foldPay len s)) a = byteAt s a := by
  rw [byteAt_foldPay, byteAt_foldPay]
  split
  · rw [inByte_foldPay _ _ (by omega), BitVec.xor_assoc, BitVec.xor_self, BitVec.xor_zero]
  · rfl

/-- The second payload fold finds its length in PMAX. -/
theorem foldPay_foldPay_pmax {len : Nat} (hlen : len ≤ 1472) (s : State) :
    (foldPay len (foldPay len s)).pmax = (foldPay len s).pmax := by
  apply BitVec.eq_of_toNat_eq
  rw [foldPay_pmax_toNat hlen, foldPay_pmax_toNat hlen, max_assoc, max_self]

/-- ACC_FOLD of the same packet twice is two header folds and then two payload folds. -/
theorem exec_accFold_accFold {lim : Limit} {s : State} (h : PacketOk lim s) :
    exec (.accFold lim) (finish (foldPay s.inLen.toNat (foldHdr s.inLen.toNat s))) =
      .next (finish (foldPay s.inLen.toNat (foldPay s.inLen.toNat
        (foldHdr s.inLen.toNat (foldHdr s.inLen.toNat s))))) := by
  have hsecond := exec_accFold (s := finish (foldPay s.inLen.toNat (foldHdr s.inLen.toNat s))) h
  rwa [finish_inLen, foldPay_inLen, foldHdr_inLen, foldHdr_finish, foldPay_finish, finish_finish,
    foldHdr_foldPay] at hsecond

/-- Settles O34: the header folds and the payload folds each cancel, and the counters follow. -/
theorem foldingTwiceCancels : Obligations.FoldingTwiceCancels := by
  intro lim s h
  refine ⟨_, _, exec_accFold h, exec_accFold_accFold h, foldHdr_foldHdr_hacc _ s, fun a => ?bytes,
    foldHdr_foldHdr_fcnt s.inLen.toNat s.inLen.toNat s, rfl, rfl, rfl, foldPay_foldPay_pmax h.inLen_le _⟩
  case bytes => exact byteAt_foldPay_foldPay h.inLen_le _ a

end Sys2Proof.Machine
end

section
/-! PROOFS. The bitmask unit of 43_mask.md (R77 to R86): the shared offset check, the queries over the mask, and the
wire form in both directions. -/

namespace Sys2Proof.Machine

/-! ### The offset operand and its check (R77) -/

/-- The command reads the offset `o`: as its immediate, which has six bits, or in OFF. -/
def ReadsOffset (imm : Byte → Instr) (reg : Instr) (s : State) (o : Half) (i : Instr) : Prop :=
  (i = imm (o.setWidth 8) ∧ o.toNat < 64) ∨ (i = reg ∧ s.off = o)

/-- An offset that fits the immediate's field is the operand's value (R53). -/
theorem ofsImm_setWidth {o : Half} (h : o.toNat < 64) : ofsImm (o.setWidth 8) = o := by
  have hbyte : (o.setWidth 8 : Byte).toNat = o.toNat := by
    rw [BitVec.toNat_setWidth, Nat.mod_eq_of_lt (by omega)]
  apply BitVec.eq_of_toNat_eq
  rw [ofsImm_toNat _ (hbyte.trans_lt h), hbyte]

/-- Both forms of a command are its checks and updates at the offset that it reads. -/
theorem ReadsOffset.body_eq {imm : Byte → Instr} {reg i : Instr} {s : State} {o : Half}
    (h : ReadsOffset imm reg s o i) {f : Half → State → Except ErrCode State}
    (himm : ∀ a, body (imm a) s = f (ofsImm a) s) (hreg : body reg s = f s.off s) :
    body i s = f o s := by
  obtain ⟨rfl, ho⟩ | ⟨rfl, rfl⟩ := h
  · rw [himm, ofsImm_setWidth ho]
  · exact hreg

section OffsetCheck

variable {i : Instr} {s : State} {o : Half} {f : Nat → State}

/-- A command that starts with the offset check makes its updates at an offset below 48. -/
theorem exec_of_offset_lt (hb : body i s = (ofsCheck o).map f) (ho : o.toNat < 48) :
    exec i s = .next (finish (f o.toNat)) :=
  exec_of_body_ok (by rw [hb, ofsCheck_eq_ok.2 ⟨ho, rfl⟩]; rfl)

/-- A command that starts with the offset check writes only the error record from offset 48 on. -/
theorem exec_of_offset_ge (hb : body i s = (ofsCheck o).map f) (ho : 48 ≤ o.toNat) :
    exec i s = .next (errorRecord (encode i) 3 s) :=
  exec_of_body_error (c := .offsetRange) (by rw [hb, ofsCheck_eq_error.2 ⟨ho, rfl⟩]; rfl)

end OffsetCheck

/-! MASK_SET, MASK_CLRB and MASK_TEST are the offset check and then an update that cannot fail. -/

theorem maskSet_eq_map (o : Half) (s : State) :
    maskSet o s = (ofsCheck o).map fun k => { s with mask := withBitSet s.mask k } := by
  unfold maskSet
  cases ofsCheck o <;> rfl

theorem maskClrb_eq_map (o : Half) (s : State) :
    maskClrb o s = (ofsCheck o).map fun k => { s with mask := withBitClear s.mask k } := by
  unfold maskClrb
  cases ofsCheck o <;> rfl

theorem maskTest_eq_map (o : Half) (s : State) :
    maskTest o s = (ofsCheck o).map fun k =>
      { s with flagBit := s.mask.getLsbD k, res := flagWord (s.mask.getLsbD k) } := by
  unfold maskTest
  cases ofsCheck o <;> rfl

/-- A flag's result word is 1 or 0. -/
theorem flagWord_toNat (f : Bool) : (flagWord f).toNat = f.toNat := by cases f <;> rfl

/-- Settles O35: the offset check, and then the bit of the offset is set. -/
theorem maskSetResult : Obligations.MaskSetResult := by
  refine ⟨fun ofs => mkWord_toNat 0x21 ofs 0, rfl, fun s o i h => ?_⟩
  have hb := (ReadsOffset.body_eq h (f := maskSet) (fun _ => rfl) rfl).trans (maskSet_eq_map o s)
  exact ⟨exec_of_offset_ge hb, fun ho =>
    ⟨_, exec_of_offset_lt hb ho, fun k => getLsbD_withBitSet s.mask o.toNat k ho, rfl⟩⟩

/-- Settles O36: the offset check, and then the bit of the offset is cleared. -/
theorem maskClrbResult : Obligations.MaskClrbResult := by
  refine ⟨fun ofs => mkWord_toNat 0x22 ofs 0, rfl, fun s o i h => ?_⟩
  have hb := (ReadsOffset.body_eq h (f := maskClrb) (fun _ => rfl) rfl).trans (maskClrb_eq_map o s)
  exact ⟨exec_of_offset_ge hb, fun ho =>
    ⟨_, exec_of_offset_lt hb ho, fun k => getLsbD_withBitClear s.mask o.toNat k, rfl⟩⟩

/-- Settles O37: the offset check, and then BIT and RES are the bit of the offset. -/
theorem maskTestResult : Obligations.MaskTestResult := by
  refine ⟨fun ofs => mkWord_toNat 0x23 ofs 0, rfl, fun s o i h => ?_⟩
  have hb := (ReadsOffset.body_eq h (f := maskTest) (fun _ => rfl) rfl).trans (maskTest_eq_map o s)
  exact ⟨exec_of_offset_ge hb, fun ho =>
    ⟨_, exec_of_offset_lt hb ho, rfl, flagWord_toNat _, rfl⟩⟩

/-- The six forms start with the check of their offset. -/
theorem body_eq_ofsCheck {i : Instr} {s : State} {o : Half}
    (h : (∃ ofs, i ∈ [Instr.maskSetImm ofs, .maskClrbImm ofs, .maskTestImm ofs] ∧ o = ofsImm ofs) ∨
      (i ∈ [Instr.maskSetOff, .maskClrbOff, .maskTestOff] ∧ o = s.off)) :
    ∃ f, body i s = (ofsCheck o).map f := by
  have hcheck : body i s = maskSet o s ∨ body i s = maskClrb o s ∨ body i s = maskTest o s := by
    simp only [List.mem_cons, List.not_mem_nil, or_false] at h
    obtain ⟨ofs, rfl | rfl | rfl, rfl⟩ | ⟨rfl | rfl | rfl, rfl⟩ := h
    all_goals simp [body]
  rw [maskSet_eq_map, maskClrb_eq_map, maskTest_eq_map] at hcheck
  obtain hset | hclear | htest := hcheck
  · exact ⟨_, hset⟩
  · exact ⟨_, hclear⟩
  · exact ⟨_, htest⟩

/-- Settles O38: the six forms share the offset check, which decides between success and OFFSET_RANGE. -/
theorem offsetsFrom48RaiseOffsetRange : Obligations.OffsetsFrom48RaiseOffsetRange := by
  refine fun s => ⟨fun ofs hofs i hi => ?imm, fun i hi => ?off⟩
  case imm =>
    obtain ⟨f, hb⟩ := body_eq_ofsCheck (s := s) (.inl ⟨ofs, hi, rfl⟩)
    rw [← ofsImm_toNat ofs hofs]
    exact ⟨exec_of_offset_ge hb, fun ho => ⟨_, exec_of_offset_lt hb ho, finish_err _⟩⟩
  case off =>
    obtain ⟨f, hb⟩ := body_eq_ofsCheck (.inr ⟨hi, rfl⟩)
    exact ⟨exec_of_offset_ge hb, fun ho => ⟨_, exec_of_offset_lt hb ho, finish_err _⟩⟩

/-! ### MASK_CLR, MASK_CNT and MASK_FIRST (R78, R82, R83) -/

theorem exec_maskClr (s : State) : exec .maskClr s = .next (finish { s with mask := 0 }) :=
  exec_of_body_ok rfl

theorem exec_maskCnt (s : State) :
    exec .maskCnt s = .next (finish { s with res := BitVec.ofNat 32 (popcount s.mask) }) :=
  exec_of_body_ok rfl

/-- MASK_FIRST on the empty mask. -/
theorem exec_maskFirst_of_none {s : State} (h : firstSet s.mask = none) :
    exec .maskFirst s = .next (finish { s with res := 0, flagNone := true }) :=
  exec_of_body_ok (by rw [body, h])

/-- MASK_FIRST on a mask whose lowest set offset is `o`. -/
theorem exec_maskFirst_of_some {s : State} {o : Nat} (h : firstSet s.mask = some o) :
    exec .maskFirst s = .next (finish { s with res := BitVec.ofNat 32 o, flagNone := false }) :=
  exec_of_body_ok (by rw [body, h])

/-- The count over the list of offsets is the size of the set of the set ones. -/
theorem popcount_eq_card (m : Mask) :
    popcount m = (Finset.univ.filter fun k : Fin 48 => m.getLsbD k).card := by
  calc popcount m
      = ((List.finRange 48).map fun k : Fin 48 => (k : Nat)).countP fun i => m.getLsbD i := by
        rw [List.map_coe_finRange_eq_range, popcount]
    _ = (List.finRange 48).countP fun k : Fin 48 => m.getLsbD k := List.countP_map
    _ = (Finset.univ.filter fun k : Fin 48 => m.getLsbD k).card := by
        rw [Finset.card, Finset.filter_val, ← Multiset.countP_eq_card_filter, Fin.univ_def,
          Multiset.coe_countP]
        simp

/-- The count fits RES. -/
theorem popcount_word_toNat (m : Mask) : (BitVec.ofNat 32 (popcount m)).toNat = popcount m := by
  have hle := popcount_le m
  rw [BitVec.toNat_ofNat, Nat.mod_eq_of_lt (by omega)]

/-- What MASK_FIRST leaves in RES and NONE (R83). -/
theorem maskFirst_spec (s : State) : ∃ t, exec .maskFirst s = .next t ∧
    (s.mask = 0 → t.res = 0 ∧ t.flagNone = true) ∧
    (s.mask ≠ 0 → t.flagNone = false ∧ s.mask.getLsbD t.res.toNat = true ∧
      ∀ k, k < t.res.toNat → s.mask.getLsbD k = false) ∧
    t = { s with res := t.res, flagNone := t.flagNone, err := 0 } := by
  cases hfirst : firstSet s.mask with
  | none =>
    have hzero := (firstSet_eq_none_iff_zero s.mask).1 hfirst
    exact ⟨_, exec_maskFirst_of_none hfirst, fun _ => ⟨rfl, rfl⟩, fun h => absurd hzero h, rfl⟩
  | some o =>
    obtain ⟨ho, hset, hbelow⟩ := (firstSet_eq_some s.mask o).1 hfirst
    have hres : (BitVec.ofNat 32 o).toNat = o := by
      rw [BitVec.toNat_ofNat, Nat.mod_eq_of_lt (by omega)]
    refine ⟨_, exec_maskFirst_of_some hfirst, fun hzero => ?_, fun _ => ⟨rfl, ?_, ?_⟩, rfl⟩
    · rw [(firstSet_eq_none_iff_zero s.mask).2 hzero] at hfirst
      cases hfirst
    · rwa [finish_res, hres]
    · rwa [finish_res, hres]

/-- Settles O39: the empty mask, the size of the set of covered offsets, and the lowest of them. -/
theorem maskClearCountFirstResult : Obligations.MaskClearCountFirstResult := by
  refine ⟨rfl, rfl, rfl, fun s => ⟨?clr, ?cnt, maskFirst_spec s⟩⟩
  case clr => exact ⟨_, exec_maskClr s, fun _ => BitVec.getLsbD_zero, rfl⟩
  case cnt =>
    exact ⟨_, exec_maskCnt s, (popcount_word_toNat s.mask).trans (popcount_eq_card s.mask), rfl⟩

/-! ### MASK_ISLONG (R84) -/

theorem exec_maskIslongImm (gs : Byte) (mo : Half) (s : State) :
    exec (.maskIslongImm gs mo) s =
      .next (finish (setIslong (isLongFor (gsImm gs) mo.toNat) s)) :=
  exec_of_body_ok rfl

theorem exec_maskIslongAcc (s : State) :
    exec .maskIslongAcc s =
      .next (finish (setIslong (isLongFor s.fcnt.toNat (highestSet s.mask)) s)) :=
  exec_of_body_ok rfl

theorem isLongFor_iff (gs mo : Nat) : isLongFor gs mo = true ↔ 16 < gs ∨ 16 ≤ mo := by
  have e : Config.shortBits = 16 := rfl
  simp [isLongFor, e]

/-- The highest set offset is from `n` on exactly when some set offset is, for a bound that the 0 of the empty mask
does not meet. -/
theorem le_highestSet_iff (m : Mask) {n : Nat} (hn : 0 < n) :
    n ≤ highestSet m ↔ ∃ k, n ≤ k ∧ m.getLsbD k = true := by
  by_cases hm : m = 0
  · subst hm
    rw [highestSet_zero]
    simp [Nat.not_le.2 hn]
  · obtain ⟨hset, hmax⟩ := highestSet_spec m hm
    constructor
    · exact fun h => ⟨_, h, hset⟩
    · rintro ⟨k, hk, hbit⟩
      exact hk.trans (hmax k hbit)

/-- Settles O40: both forms make the same choice, of the operands or of FCNT and the highest set offset. -/
theorem maskIslongResult : Obligations.MaskIslongResult := by
  refine ⟨rfl, fun s gs mo => ⟨mkWord_toNat 0x26 gs mo, fun hwf => ?imm, ?acc⟩⟩
  case imm =>
    refine ⟨_, exec_maskIslongImm gs mo s, ?_, flagWord_toNat _, rfl⟩
    rw [gsImm_eq gs hwf]
    exact isLongFor_iff gs.toNat mo.toNat
  case acc =>
    refine ⟨_, exec_maskIslongAcc s, ?_, flagWord_toNat _, rfl⟩
    rw [← le_highestSet_iff s.mask (by omega)]
    exact isLongFor_iff s.fcnt.toNat (highestSet s.mask)

/-! ### MASK_ENC (R85) -/

/-- MASK_ENC of a mask that the selected form carries. -/
theorem exec_maskEnc_of_fits {s : State} (h : MaskFits s) :
    exec .maskEnc s = .next (finish { s with mw := mwOf (maskWire s.mask s.islong) }) :=
  exec_of_body_ok (by rw [body, (maskDoesNotFit_eq_false s).2 h]; rfl)

/-- MASK_ENC of a mask that the short form cannot carry. -/
theorem exec_maskEnc_of_not_fits {s : State} (h : ¬ MaskFits s) :
    exec .maskEnc s = .next (errorRecord (encode .maskEnc) 3 s) := by
  have hnot : maskDoesNotFit s = true := by
    rwa [← maskDoesNotFit_eq_false, Bool.not_eq_false] at h
  exact exec_of_body_error (c := .offsetRange) (by rw [body, hnot]; rfl)

/-- The short wire form in MW: the wire value in the first two bytes, the rest 0. -/
theorem mwOf_maskWire_short (m : Mask) :
    mwOf (maskWire m false) = #v[hiByte (wire16 m), loByte (wire16 m), 0, 0, 0, 0] := rfl

/-- MW after MASK_ENC in the short form, as one value. -/
theorem be16_mwOf_short (m : Mask) :
    be16 (mwOf (maskWire m false))[0] (mwOf (maskWire m false))[1] = wire16 m :=
  be16_hi_lo (wire16 m)

/-- MW after MASK_ENC in the long form, as one value. -/
theorem be48_mwOf_long (m : Mask) :
    be48 (mwOf (maskWire m true))[0] (mwOf (maskWire m true))[1] (mwOf (maskWire m true))[2]
      (mwOf (maskWire m true))[3] (mwOf (maskWire m true))[4] (mwOf (maskWire m true))[5] =
        wire48 m :=
  be48_toBE48 (wire48 m)

/-- Settles O41: MW holds the wire value, whose bits are the mask's in the opposite order. -/
theorem maskEncResult : Obligations.MaskEncResult := by
  refine ⟨rfl, fun s => ⟨fun hfits => ⟨_, exec_maskEnc_of_fits hfits, fun hshort => ?short,
    fun hlong i hi => ?long, rfl⟩, exec_maskEnc_of_not_fits⟩⟩
  case short =>
    simp only [finish_mw, hshort]
    refine ⟨fun i hi => ?_, rfl, rfl, rfl, rfl⟩
    rw [be16_mwOf_short, getLsbD_wire16 _ _ (by omega), Nat.sub_sub_self (by omega)]
  case long =>
    simp only [finish_mw, hlong]
    rw [be48_mwOf_long, getLsbD_wire48 _ _ (by omega), Nat.sub_sub_self (by omega)]

/-! ### MASK_DEC (R86) -/

/-- The mask that MASK_DEC reads from MW. -/
def maskOfMw (s : State) : Mask :=
  maskRead s.mw[0] s.mw[1] s.mw[2] s.mw[3] s.mw[4] s.mw[5] s.islong

theorem exec_maskDec (s : State) :
    exec .maskDec s = .next (finish { s with mask := maskOfMw s }) :=
  exec_of_body_ok rfl

theorem maskOfMw_of_short {s : State} (h : s.islong = false) :
    maskOfMw s = unwire16 (be16 s.mw[0] s.mw[1]) := by
  rw [maskOfMw, h]; rfl

theorem maskOfMw_of_long {s : State} (h : s.islong = true) :
    maskOfMw s = unwire48 (be48 s.mw[0] s.mw[1] s.mw[2] s.mw[3] s.mw[4] s.mw[5]) := by
  rw [maskOfMw, h]; rfl

/-- Settles O42: MASK is the mask that the wire value stands for, whose bits are the value's in the opposite order. -/
theorem maskDecResult : Obligations.MaskDecResult := by
  refine ⟨rfl, fun s => ⟨_, exec_maskDec s, fun hshort i => ?short, fun hlong i hi => ?long, rfl⟩⟩
  case short => rw [finish_mask, maskOfMw_of_short hshort, getLsbD_unwire16]
  case long =>
    rw [finish_mask, maskOfMw_of_long hlong, getLsbD_unwire48, decide_eq_true hi, Bool.true_and]

/-! ### MASK_DEC and then MASK_ENC (R86) -/

/-- The bytes of a big-endian six-byte value are the bytes that it was put together from. The widths are named because
`be48` has its width 48 as a numeral and not as the sum that an append has. -/
theorem toBE48_be48 (b0 b1 b2 b3 b4 b5 : Byte) :
    toBE48 (be48 b0 b1 b2 b3 b4 b5) = [b0, b1, b2, b3, b4, b5] := by
  have low (n : Nat) (x : BitVec n) (b : Byte) : (x ++ b).extractLsb' 0 8 = b :=
    BitVec.extractLsb'_append_eq_right
  have high (n k : Nat) (x : BitVec n) (b : Byte) :
      (x ++ b).extractLsb' (k + 8) 8 = x.extractLsb' k 8 :=
    BitVec.extractLsb'_append_eq_of_le (Nat.le_add_left 8 k)
  simp only [toBE48, be48, low 40, low 32, low 24, low 16, low 8, high 40, high 32, high 24, high 16,
    high 8, BitVec.extractLsb'_eq_self]

theorem vector6_eta (v : Vector Byte 6) : #v[v[0], v[1], v[2], v[3], v[4], v[5]] = v := by
  ext k hk : 1
  interval_cases k <;> rfl

/-- What MASK_DEC reads fits the selected form. -/
theorem maskFits_of_maskDec (s : State) : MaskFits (finish { s with mask := maskOfMw s }) := by
  intro hshort
  have hmask : maskOfMw s = unwire16 (be16 s.mw[0] s.mw[1]) := maskOfMw_of_short hshort
  simp only [finish_mask, hmask]
  exact (hasLongBit_eq_false _).1 (unwire16_fits _)

/-- The long wire form of what was read from MW is MW. -/
theorem mwOf_maskWire_maskOfMw_long {s : State} (h : s.islong = true) :
    mwOf (maskWire (maskOfMw s) true) = s.mw := by
  rw [maskOfMw_of_long h, maskWire, if_pos rfl, wire48_unwire48, toBE48_be48]
  exact vector6_eta s.mw

/-- The short wire form of what was read from MW is its first two bytes. -/
theorem mwOf_maskWire_maskOfMw_short {s : State} (h : s.islong = false) :
    mwOf (maskWire (maskOfMw s) false) = #v[s.mw[0], s.mw[1], 0, 0, 0, 0] := by
  rw [maskOfMw_of_short h, mwOf_maskWire_short, wire16_unwire16, hiByte_be16, loByte_be16]

/-- Settles O43: the mask read fits, and its wire form is the value that was read. -/
theorem maskDecThenEncRestoresMw : Obligations.MaskDecThenEncRestoresMw := by
  refine fun s => ⟨_, _, exec_maskDec s, exec_maskEnc_of_fits (maskFits_of_maskDec s), finish_err _,
    fun hlong => ?long, fun hshort => ?short⟩
  case long =>
    simp only [finish_mw, finish_mask, finish_islong, hlong]
    exact mwOf_maskWire_maskOfMw_long hlong
  case short =>
    simp only [finish_mw, finish_mask, finish_islong, hshort]
    exact mwOf_maskWire_maskOfMw_short hshort

end Sys2Proof.Machine
end

section
/-! PROOFS. The sequence-number comparator of 44_seqnum.md (R87 to R91): the operand's two forms, the wrapping
arithmetic, and the three commands. -/

namespace Sys2Proof.Machine

/-! ### The 16-bit operand (formats N0 and N1 of R52) -/

/-- The command reads the 16-bit value `n`: as its immediate, or in the register that holds `held`. -/
def ReadsHalf (imm : Half → Instr) (reg : Instr) (held n : Half) (i : Instr) : Prop :=
  i = imm n ∨ (i = reg ∧ held = n)

/-- Both forms of a command that cannot fail make its update at the value that it reads. -/
theorem ReadsHalf.exec_eq {imm : Half → Instr} {reg i : Instr} {held n : Half} {s : State}
    (h : ReadsHalf imm reg held n i) {f : Half → State → State}
    (himm : ∀ a, body (imm a) s = .ok (f a s)) (hreg : body reg s = .ok (f held s)) :
    exec i s = .next (finish (f n s)) := by
  obtain rfl | ⟨rfl, rfl⟩ := h
  · exact exec_of_body_ok (himm n)
  · exact exec_of_body_ok hreg

/-! ### Offsets from the base (R87, R88) -/

theorem offsetOf_toNat (sn base : Half) :
    (offsetOf sn base).toNat = (sn.toNat + 65536 - base.toNat) % 65536 := by
  rw [offsetOf, BitVec.toNat_sub]
  omega

/-- A sequence number lies at its offset from the base. -/
theorem base_add_offsetOf (sn base : Half) : base + offsetOf sn base = sn :=
  add_sub_cancel base sn

theorem inWindow_iff (long : Bool) (o : Half) :
    inWindow long o = true ↔ o.toNat ≤ if long then 47 else 15 := by
  rw [inWindow, decide_eq_true_iff, windowMax]

/-- A 16-bit value keeps its value in RES. -/
theorem half_setWidth_word_toNat (h : Half) : (h.setWidth 32 : Word).toNat = h.toNat :=
  BitVec.toNat_setWidth_of_le (by decide)

/-! ### SN_OFF (R89) -/

/-- Both forms of SN_OFF make the comparison for the value that they read. -/
theorem exec_of_readsHalf_snOff {s : State} {sn : Half} {i : Instr}
    (h : ReadsHalf .snOffImm .snOffRtp s.rtpSn sn i) : exec i s = .next (finish (snOff sn s)) :=
  h.exec_eq (fun _ => rfl) rfl

/-- Settles O44: both forms put the operand's offset into OFF and RES, and the window test into INWIN. -/
theorem snOffResult : Obligations.SnOffResult := by
  refine ⟨fun sn => mkWord_toNat 0x30 0 sn, rfl, fun s sn i h => ?_⟩
  have hwraps : (s.snbase.toNat + (offsetOf sn s.snbase).toNat) % 65536 = sn.toNat := by
    rw [← BitVec.toNat_add, base_add_offsetOf]
  exact ⟨_, exec_of_readsHalf_snOff h, offsetOf_toNat sn s.snbase, hwraps,
    half_setWidth_word_toNat _, inWindow_iff s.islong _, rfl⟩

/-! ### SN_ADD (R90) -/

/-- Both forms of SN_ADD add the value that they read to the base. -/
theorem exec_of_readsHalf_snAdd {s : State} {k : Half} {i : Instr}
    (h : ReadsHalf .snAddImm .snAddOff s.off k i) : exec i s = .next (finish (snAdd k s)) :=
  h.exec_eq (fun _ => rfl) rfl

theorem snAdd_res_toNat (k : Half) (s : State) :
    (snAdd k s).res.toNat = (s.snbase.toNat + k.toNat) % 65536 := by
  rw [snAdd_res, half_setWidth_word_toNat, BitVec.toNat_add]

/-- Settles O45: the wrapping sum with the base, which takes the offset that SN_OFF left back to its number. -/
theorem snAddResult : Obligations.SnAddResult := by
  refine ⟨fun k => mkWord_toNat 0x31 0 k, rfl, fun s k i h => ?add, fun s sn => ?inverse⟩
  case add => exact ⟨_, exec_of_readsHalf_snAdd h, snAdd_res_toNat k s, rfl⟩
  case inverse =>
    refine ⟨_, _, exec_of_readsHalf_snOff (.inl rfl),
      exec_of_readsHalf_snAdd (.inr ⟨rfl, rfl⟩), ?_⟩
    simp only [finish_res, snAdd_res, finish_snbase, snOff_snbase, finish_off, snOff_off,
      half_setWidth_word_toNat, base_add_offsetOf]

/-! ### SN_SETBASE (R91) -/

/-- Both forms of SN_SETBASE set the base to the value that they read. -/
theorem exec_of_readsHalf_snSetbase {s : State} {sn : Half} {i : Instr}
    (h : ReadsHalf .snSetbaseImm .snSetbaseRtp s.rtpSn sn i) :
    exec i s = .next (finish (snSetbase sn s)) :=
  h.exec_eq (fun _ => rfl) rfl

/-- A header fold keeps a base that is set, whatever the packet's length (R74). -/
theorem exec_accFoldHdr_snbase_of_snbValid {lim : Limit} {t u : State} (hset : t.snbValid = true)
    (h : exec (.accFoldHdr lim) t = .next u) : u.snbase = t.snbase := by
  obtain ⟨v, hbody, rfl⟩ | ⟨c, -, rfl⟩ := exec_cases h
  · obtain ⟨-, -, rfl⟩ := checkedFold_eq_ok.1 hbody
    rw [finish_snbase, foldHdr_snbase, if_pos hset]
  · exact raiseErr_snbase _ c t

/-- The word SNCTL after SN_SETBASE: the base, and SNB_VALID in bit 16 (R36). -/
theorem regWord_snctl_of_snbValid {t : State} (hset : t.snbValid = true) :
    (regWord t 0x001C).toNat % 131072 = t.snbase.toNat + 65536 := by
  have hbase := t.snbase.isLt
  rw [regWord_snbase_toNat, hset, Bool.toNat_true]
  omega

/-- Settles O46: both forms set the base and SNB_VALID, which a header fold then respects. -/
theorem snSetbaseResult : Obligations.SnSetbaseResult := by
  refine ⟨fun sn => mkWord_toNat 0x32 0 sn, rfl, fun s sn i lim h => ?_⟩
  exact ⟨_, exec_of_readsHalf_snSetbase h, rfl, regWord_snctl_of_snbValid rfl, rfl,
    fun _ => exec_accFoldHdr_snbase_of_snbValid rfl⟩

end Sys2Proof.Machine
end

section
/-! PROOFS. The RTP header field extractor of 45_rtp_extract.md (R92): the payload length, the test for an FEC
candidate, and the command. -/

namespace Sys2Proof.Machine

/-- The payload type leaves out the marker, bit 7 of header byte 1. -/
theorem ptOf_toNat (b : Byte) : (ptOf b).toNat = b.toNat % 128 := by
  rw [ptOf, BitVec.extractLsb'_toNat, Nat.shiftRight_zero]

/-- ISFEC compares the payload types as numbers. -/
theorem isFecCandidate_iff (pt : BitVec 7) (b : Byte) :
    isFecCandidate pt b = true ↔ b.toNat % 128 = pt.toNat := by
  rw [isFecCandidate, beq_iff_eq, ← BitVec.toNat_inj, ptOf_toNat]

/-- The payload length of a packet that fits in IN fits in RTP_PLEN. -/
theorem rtpFields_rtpPlen_toNat {len : Nat} (hlen : len ≤ 1472) (s : State) :
    (rtpFields len s).rtpPlen.toNat = len - 12 := by
  have e : Config.hdrLen = 12 := rfl
  rw [rtpFields_rtpPlen, e, BitVec.toNat_ofNat, Nat.mod_eq_of_lt (by omega)]

theorem exec_rtpParse {lim : Limit} {s : State} (h : PacketOk lim s) :
    exec (.rtpParse lim) s = .next (finish (rtpFields s.inLen.toNat s)) :=
  exec_of_packetOk rfl h

/-- Settles O47: after the length check, each field of `rtpFields` as a number. -/
theorem rtpParseResult : Obligations.RtpParseResult := by
  refine ⟨rfl, rfl, fun lim s => ⟨exec_of_not_packetOk rfl, fun h =>
    ⟨_, exec_rtpParse h, rfl, rfl, ?sn, ?ts, ?ssrc, ?plen, ?isfec, ?res, rfl⟩⟩⟩
  case sn => exact be16_toNat _ _
  case ts => exact be32_toNat _ _ _ _
  case ssrc => exact be32_toNat _ _ _ _
  case plen => exact rtpFields_rtpPlen_toNat h.inLen_le s
  case isfec => exact isFecCandidate_iff s.fecPt (inByte s 1)
  case res => exact flagWord_toNat _

end Sys2Proof.Machine
end

section
/-! PROOFS. The FEC packets of 46_fec_header.md (R94 to R98): the assembled packet field by field, the checks and
updates of FEC_ASM, FEC_PARSE and RECOVER, and an assembled packet parsed. -/

namespace Sys2Proof.Machine

/-! ### Bit fields of a packet's bytes (R61 to R63, R98) -/

theorem lowSix_toNat (b : Byte) : (b &&& 0x3F).toNat = b.toNat % 64 :=
  Nat.and_two_pow_sub_one_eq_mod b.toNat 6

/-- A byte put together from bits 7:6 and the low six bits of another byte. -/
theorem highTwo_or_lowSix_toNat (v : BitVec 2) (b : Byte) :
    (v.setWidth 8 <<< 6 ||| (b &&& 0x3F)).toNat = 64 * v.toNat + b.toNat % 64 := by
  have hv := v.isLt
  have hlow : b.toNat % 64 < 2 ^ 6 := Nat.mod_lt _ (by decide)
  have hhigh : (v.setWidth 8 <<< 6 : Byte).toNat = v.toNat <<< 6 := by
    simp only [BitVec.toNat_shiftLeft, BitVec.toNat_setWidth, Nat.shiftLeft_eq]
    omega
  rw [BitVec.toNat_or, lowSix_toNat, hhigh, ← Nat.shiftLeft_add_eq_or_of_lt hlow, Nat.shiftLeft_eq]
  omega

/-- The low six bits of such a byte are those of the other byte. -/
theorem lowSix_highTwo_or_lowSix (v : BitVec 2) (b : Byte) :
    (v.setWidth 8 <<< 6 ||| (b &&& 0x3F)) &&& 0x3F = b &&& 0x3F := by
  apply BitVec.eq_of_toNat_eq
  rw [lowSix_toNat, highTwo_or_lowSix_toNat, lowSix_toNat]
  omega

/-- Bit 6 of such a byte is the lower of the two. -/
theorem getLsbD_six_highTwo_or_lowSix (v : BitVec 2) (b : Byte) :
    (v.setWidth 8 <<< 6 ||| (b &&& 0x3F)).getLsbD 6 = v.getLsbD 0 := by
  simp

/-- Byte 1 of an FEC packet: the marker, and FEC_PT in bits 6:0 (R61). -/
theorem marker_or_pt_toNat (pt : BitVec 7) : (0x80 ||| pt.setWidth 8 : Byte).toNat = 128 + pt.toNat := by
  have hpt : (pt.setWidth 8).toNat = pt.toNat := BitVec.toNat_setWidth_of_le (by decide)
  rw [BitVec.toNat_or, hpt]
  exact (Nat.two_pow_add_eq_or_of_lt pt.isLt 1).symm

/-! ### The fields of an assembled packet (R61 to R67) -/

/-- The bytes `f 0`, `f 1`, ... begin with the packet that FEC_ASM assembles from `s`. -/
def CarriesPacketOf (s : State) (f : Nat → Byte) : Prop :=
  ∀ k < asmL0 s + padTo4 (asmL0 s), f k = (fecPacket .align .rtpByte0 s).getD k 0

/-- `padflag` is in byte 0 (R63). -/
theorem fecB0_or_padFlag (n : Nat) :
    Config.fecB0 ||| padFlagAt .rtpByte0 .rtpByte0 (padTo4 n) = if n % 4 = 0 then 0x80 else 0xA0 := by
  by_cases h : n % 4 = 0
  · have hp : padTo4 n = 0 := if_pos h
    rw [hp, if_pos h]; rfl
  · have hp : padTo4 n ≠ 0 := by unfold padTo4; rw [if_neg h]; omega
    rw [padFlagAt, if_pos ⟨rfl, hp⟩, if_neg h]; rfl

/-- Byte 12 holds L in bit 6, no `padflag`, and the low six bits of HACC[0] (R62, R63). -/
theorem fecFlagsByte_rtpByte0 (p : Nat) (s : State) :
    fecFlagsByte .rtpByte0 p s =
      (if s.islong then 1#2 else 0#2).setWidth 8 <<< 6 ||| (s.hacc[0] &&& 0x3F) := by
  have hpad : padFlagAt .rtpByte0 .fecByte12 p = 0#8 := if_neg (by simp)
  rw [fecFlagsByte, hpad, BitVec.or_zero]
  cases s.islong <;> rfl

theorem padBytes_align_of_ne_zero {p : Nat} (h : p ≠ 0) :
    padBytes .align p = List.replicate (p - 1) 0 ++ [BitVec.ofNat 8 p] := if_neg h

/-- Every padding byte before the last is 0 (R67). -/
theorem padBytes_align_getD_zero {p q : Nat} (h : q + 1 < p) : (padBytes .align p).getD q 0 = 0 := by
  have hq : q < (List.replicate (p - 1) (0 : Byte)).length := by rw [List.length_replicate]; omega
  rw [padBytes_align_of_ne_zero (by omega), getD_append_left _ _ _ _ hq, List.getD_replicate _ (by omega)]

/-- The last padding byte is the number of them (R67). -/
theorem padBytes_align_getD_last {p : Nat} (h : p ≠ 0) :
    (padBytes .align p).getD (p - 1) 0 = BitVec.ofNat 8 p := by
  rw [padBytes_align_of_ne_zero h, getD_append_right _ _ _ _ (by rw [List.length_replicate]),
    List.length_replicate, Nat.sub_self]
  rfl

/-- The unpadded length is that of the fixed part, the mask and the payload (R67). -/
theorem asmL0_eq (s : State) : asmL0 s = 24 + mlOf s.islong + s.pmax.toNat := rfl

theorem mlOf_cases (long : Bool) : mlOf long = 2 ∨ mlOf long = 6 := by
  cases long <;> simp [mlOf]

namespace CarriesPacketOf

variable {s : State} {f : Nat → Byte}

theorem fixed (h : CarriesPacketOf s f) {k : Nat} (hk : k < 24) :
    f k = (fecFixedPart s).getD k 0 := by
  rw [h k (by have := asmL0_eq s; omega), fecPacket_getD_fixed s k hk]

theorem mask (h : CarriesPacketOf s f) {k : Nat} (hk : k < mlOf s.islong) :
    f (24 + k) = (maskWire s.mask s.islong).getD k 0 := by
  rw [h _ (by have := asmL0_eq s; omega), fecPacket_getD_mask s k hk]

theorem payload (h : CarriesPacketOf s f) {j : Nat} (hj : j < s.pmax.toNat) :
    f (24 + mlOf s.islong + j) = paccByte s j := by
  rw [h _ (by have := asmL0_eq s; omega), fecPacket_getD_payload s j hj]

theorem padding (h : CarriesPacketOf s f) {q : Nat} (hq : q < padTo4 (asmL0 s)) :
    f (asmL0 s + q) = (padBytes .align (padTo4 (asmL0 s))).getD q 0 := by
  rw [h _ (by omega), fecPacket_getD_padding]

theorem firstByte (h : CarriesPacketOf s f) : f 0 = if asmL0 s % 4 = 0 then 0x80 else 0xA0 :=
  (h.fixed (by decide)).trans (fecB0_or_padFlag (asmL0 s))

theorem fecPt (h : CarriesPacketOf s f) : (f 1).toNat = 128 + s.fecPt.toNat := by
  rw [h.fixed (by decide)]; exact marker_or_pt_toNat s.fecPt

theorem fecSeq (h : CarriesPacketOf s f) : be16 (f 2) (f 3) = s.fecSeq := by
  simp (disch := decide) only [h.fixed]; exact be16_hi_lo s.fecSeq

theorem lastTs (h : CarriesPacketOf s f) : be32 (f 4) (f 5) (f 6) (f 7) = s.lastTs := by
  simp (disch := decide) only [h.fixed]; exact be32_toBE32 s.lastTs

theorem lastSsrc (h : CarriesPacketOf s f) : be32 (f 8) (f 9) (f 10) (f 11) = s.lastSsrc := by
  simp (disch := decide) only [h.fixed]; exact be32_toBE32 s.lastSsrc

theorem flagsByte (h : CarriesPacketOf s f) :
    f 12 = (if s.islong then 1#2 else 0#2).setWidth 8 <<< 6 ||| (s.hacc[0] &&& 0x3F) :=
  (h.fixed (by decide)).trans (fecFlagsByte_rtpByte0 _ s)

theorem flagsByte_toNat (h : CarriesPacketOf s f) :
    (f 12).toNat = (if s.islong then 64 else 0) + s.hacc[0].toNat % 64 := by
  rw [h.flagsByte, highTwo_or_lowSix_toNat]
  cases s.islong <;> rfl

theorem hacc_one (h : CarriesPacketOf s f) : f 13 = s.hacc[1] := h.fixed (by decide)

theorem snbase (h : CarriesPacketOf s f) : be16 (f 14) (f 15) = s.snbase := by
  simp (disch := decide) only [h.fixed]; exact be16_hi_lo s.snbase

theorem hacc (h : CarriesPacketOf s f) {k : Nat} (hk : k < 6) : f (16 + k) = s.hacc[4 + k] := by
  rw [h.fixed (by omega)]
  interval_cases k <;> rfl

theorem pmax (h : CarriesPacketOf s f) : be16 (f 22) (f 23) = s.pmax := by
  simp (disch := decide) only [h.fixed]; exact be16_hi_lo s.pmax

/-- The short mask field is the short wire value (R65). -/
theorem mask_short (h : CarriesPacketOf s f) (hs : s.islong = false) :
    be16 (f 24) (f 25) = wire16 s.mask := by
  have hmask (k : Nat) (hk : k < 2) : f (24 + k) = (maskWire s.mask false).getD k 0 :=
    hs ▸ h.mask (by rwa [hs])
  rw [hmask 0 (by decide), hmask 1 (by decide)]
  exact be16_hi_lo (wire16 s.mask)

/-- The long mask field is the long wire value (R65). -/
theorem mask_long (h : CarriesPacketOf s f) (hl : s.islong = true) :
    be48 (f 24) (f 25) (f 26) (f 27) (f 28) (f 29) = wire48 s.mask := by
  have hmask (k : Nat) (hk : k < 6) : f (24 + k) = (maskWire s.mask true).getD k 0 :=
    hl ▸ h.mask (by rwa [hl])
  rw [hmask 0 (by decide), hmask 1 (by decide), hmask 2 (by decide), hmask 3 (by decide),
    hmask 4 (by decide), hmask 5 (by decide)]
  exact be48_toBE48 (wire48 s.mask)

/-- The mask is read back from the wire bytes that carry it (R86, R94). -/
theorem maskRead (h : CarriesPacketOf s f) (hfits : MaskFits s) :
    maskRead (f 24) (f 25) (f 26) (f 27) (f 28) (f 29) s.islong = s.mask := by
  refine maskRead_maskWire s.mask s.islong (fun hs => ?_) (fun k => f (24 + k)) fun k hk => ?_
  · exact (hasLongBit_eq_false s.mask).2 (hfits hs)
  · rw [maskWire_length_eq, maskLen_eq] at hk
    exact h.mask hk

end CarriesPacketOf

/-! ### FEC_ASM (R95) -/

/-- FEC_ASM of a folded group whose mask fits and whose packet fits OUT. -/
theorem exec_fecAsm {s : State} (hgroup : s.fcnt ≠ 0) (hfits : MaskFits s)
    (hlen : asmL0 s + padTo4 (asmL0 s) ≤ 1472) :
    exec .fecAsm s = .next (finish (fecEmit .align .rtpByte0 s)) :=
  exec_of_body_ok (fecAssemble_eq_ok.2
    ⟨hgroup, (maskDoesNotFit_eq_false s).2 hfits, (fecPacketLen_eq s).trans_le hlen, rfl⟩)

/-- FEC_ASM that succeeds has passed its checks, and made its updates. -/
theorem eq_fecEmit_of_exec_fecAsm {s t : State} (h : exec .fecAsm s = .next t) (herr : t.err = 0) :
    MaskFits s ∧ asmL0 s + padTo4 (asmL0 s) ≤ 1472 ∧ t = finish (fecEmit .align .rtpByte0 s) := by
  obtain ⟨u, hb, rfl⟩ | ⟨c, -, rfl⟩ := exec_cases h
  · obtain ⟨-, hfits, hlen, rfl⟩ := fecAssemble_eq_ok.1 hb
    exact ⟨(maskDoesNotFit_eq_false s).1 hfits, (fecPacketLen_eq s).symm.trans_le hlen, rfl⟩
  · exact absurd herr c.number_ne_zero

theorem carriesPacketOf_fecEmit (s : State) :
    CarriesPacketOf s (outByte (finish (fecEmit .align .rtpByte0 s))) := fun k hk => by
  rw [outByte_finish, outByte_fecEmit s k hk]

theorem fecPacketLen_align_eq (s : State) :
    fecPacketLen .align s = asmL0 s + padTo4 (asmL0 s) := fecPacketLen_eq s

/-- FEC_ASM writes the bytes of the packet in OUT, and no other. -/
theorem byteAt_fecEmit_outside (s : State) {a : Nat}
    (ha : ¬ (Config.outBase ≤ a ∧ a < Config.outBase + (asmL0 s + padTo4 (asmL0 s)))) :
    byteAt (finish (fecEmit .align .rtpByte0 s)) a = byteAt s a := by
  have e : Config.outBase = 0x2000 := rfl
  rw [byteAt_finish, byteAt_fecEmit, fecPacketLen_align_eq, if_neg (by rwa [e] at ha)]

/-- A packet that fits OUT has its length in OUT_LEN. -/
theorem fecEmit_outLen_toNat {s : State} (hlen : asmL0 s + padTo4 (asmL0 s) ≤ 1472) :
    (fecEmit .align .rtpByte0 s).outLen.toNat = asmL0 s + padTo4 (asmL0 s) := by
  rw [fecEmit_outLen, fecPacketLen_align_eq, BitVec.toNat_ofNat, Nat.mod_eq_of_lt (by omega)]

/-- A packet that fits OUT has its length in RES. -/
theorem fecEmit_res_toNat {s : State} (hlen : asmL0 s + padTo4 (asmL0 s) ≤ 1472) :
    (fecEmit .align .rtpByte0 s).res.toNat = asmL0 s + padTo4 (asmL0 s) := by
  rw [fecEmit_res, fecPacketLen_align_eq, BitVec.toNat_ofNat, Nat.mod_eq_of_lt (by omega)]

/-- FEC_ASM leaves every register but OUT_LEN, RES, FEC_SEQ and ERR. -/
theorem finish_fecEmit_frame (s : State) :
    finish (fecEmit .align .rtpByte0 s) =
      { s with
        mem := (finish (fecEmit .align .rtpByte0 s)).mem
        outLen := (finish (fecEmit .align .rtpByte0 s)).outLen
        res := (finish (fecEmit .align .rtpByte0 s)).res
        fecSeq := (finish (fecEmit .align .rtpByte0 s)).fecSeq
        err := 0 } := by
  rw [finish, fecEmit]

/-- Settles O48: the updates of `fecEmit` after the checks, and the fields of the packet that OUT then carries. -/
theorem fecAsmResult : Obligations.FecAsmResult := by
  intro s hgroup hfits hlen
  have hpkt := carriesPacketOf_fecEmit s
  have hout := fecEmit_outLen_toNat hlen
  refine ⟨_, exec_fecAsm hgroup hfits hlen, hpkt.firstByte, hpkt.fecPt, hpkt.fecSeq, hpkt.lastTs,
    hpkt.lastSsrc, hpkt.flagsByte_toNat, hpkt.hacc_one, hpkt.snbase, fun k hk => hpkt.hacc hk,
    hpkt.pmax, fun hs i hi => ?short, fun hl i hi => ?long, fun j hj => hpkt.payload hj,
    fun q hq => ?padZero, fun hp => ?padLast, fun a ha => byteAt_fecEmit_outside s ha, hout, ?aligned,
    (fecEmit_res_toNat hlen).trans hout.symm, BitVec.toNat_add _ _, finish_fecEmit_frame s⟩
  case short =>
    rw [hpkt.mask_short hs, getLsbD_wire16 _ _ (by omega), Nat.sub_sub_self (by omega)]
  case long =>
    rw [hpkt.mask_long hl, getLsbD_wire48 _ _ (by omega), Nat.sub_sub_self (by omega)]
  case padZero => rw [hpkt.padding (by omega), padBytes_align_getD_zero hq]
  case padLast =>
    have hlt := padTo4_lt (asmL0 s)
    rw [Nat.add_sub_assoc (by omega), hpkt.padding (by omega), padBytes_align_getD_last hp,
      BitVec.toNat_ofNat, Nat.mod_eq_of_lt (by omega)]
  case aligned => rw [finish_outLen, hout, padTo4_aligns]

theorem maskDoesNotFit_eq_true (s : State) : maskDoesNotFit s = true ↔ ¬ MaskFits s := by
  rw [← maskDoesNotFit_eq_false, Bool.not_eq_false]

/-- Settles O49: the checks of `fecAssemble` in their order. -/
theorem fecAsmErrorsInOrder : Obligations.FecAsmErrorsInOrder := by
  refine fun s => ⟨fun hgroup => ?_, fun hgroup hfits => ?_, fun hgroup hfits hlen => ?_⟩
  · exact exec_of_body_error (c := .zeroGroup) (fecAssemble_eq_error.2 (.inl ⟨hgroup, rfl⟩))
  · exact exec_of_body_error (c := .offsetRange) (fecAssemble_eq_error.2 (.inr (.inl
      ⟨hgroup, (maskDoesNotFit_eq_true s).2 hfits, rfl⟩)))
  · exact exec_of_body_error (c := .invalidLen) (fecAssemble_eq_error.2 (.inr (.inr
      ⟨hgroup, (maskDoesNotFit_eq_false s).2 hfits, hlen.trans_eq (fecPacketLen_eq s).symm, rfl⟩)))

/-! ### FEC_PARSE (R97) -/

/-- The packet's protection length as a number (R64). -/
theorem fecProtLen_eq (s : State) :
    fecProtLen s = 256 * (inByte s 22).toNat + (inByte s 23).toNat := be16_toNat _ _

theorem fecProtLen_lt (s : State) : fecProtLen s < 65536 := (inBE16 s 22).isLt

/-- FEC_PARSE of a packet that is long enough. -/
theorem exec_fecParse {s : State} (hmax : s.inLen.toNat ≤ 1472) (hmin : 26 ≤ s.inLen.toNat)
    (hlen : 24 + mlOf (fecLongFlag s) + fecProtLen s ≤ s.inLen.toNat) :
    exec .fecParse s = .next (finish (fecLoad s)) :=
  exec_of_body_ok (fecDisassemble_eq_ok.2 ⟨hmin, hmax, hlen, rfl⟩)

theorem fecLoad_prot_toNat (s : State) : (fecLoad s).prot.toNat = fecProtLen s := by
  rw [fecLoad_prot, BitVec.toNat_ofNat, Nat.mod_eq_of_lt (fecProtLen_lt s)]

theorem mwOf_getElem (bs : List Byte) {k : Nat} (h : k < 6) : (mwOf bs)[k] = bs.getD k 0 := by
  interval_cases k <;> rfl

/-- MW after FEC_PARSE: the wire bytes of the mask field, the rest 0 (R97). -/
theorem fecLoad_mw_getElem (s : State) {k : Nat} (h : k < 6) :
    (fecLoad s).mw[k] = if k < mlOf (fecLongFlag s) then inByte s (24 + k) else 0 := by
  simp only [fecLoad_mw, mwOf_getElem _ h, fecMaskBytes, maskLen_eq]
  split
  · next hk => rw [inBytesFrom_getD _ _ _ _ hk]
  · next hk => exact List.getD_eq_default _ _ (by rw [inBytesFrom_length]; omega)

theorem fecHaccLoaded_getElem (s : State) {k : Nat} (h : k < 6) :
    (fecHaccLoaded s)[4 + k] = inByte s (16 + k) := by
  interval_cases k <;> rfl

theorem fecLoad_mask_of_short {s : State} (h : fecLongFlag s = false) :
    (fecLoad s).mask = unwire16 (be16 (inByte s 24) (inByte s 25)) := by
  rw [fecLoad_mask, h]; rfl

theorem fecLoad_mask_of_long {s : State} (h : fecLongFlag s = true) :
    (fecLoad s).mask = unwire48 (be48 (inByte s 24) (inByte s 25) (inByte s 26) (inByte s 27)
      (inByte s 28) (inByte s 29)) := by
  rw [fecLoad_mask, h]; rfl

/-- PACC after FEC_PARSE: the packet's payload, the rest 0 (R97). -/
theorem paccByte_fecLoad (s : State) {j : Nat} (h : j < 1460) :
    paccByte (fecLoad s) j =
      if j < fecProtLen s then inByte s (24 + mlOf (fecLongFlag s) + j) else 0 := by
  have e : Config.paccBase = 0x3000 := rfl
  rw [paccByte, byteAt_fecLoad, e]
  by_cases hj : j < fecProtLen s
  · rw [if_pos (by omega), if_pos hj, Nat.add_sub_cancel_left, maskLen_eq]
  · rw [if_neg (by omega), if_pos (by omega), if_neg hj]

/-- A payload that fits IN behind its headers fits PACC, so FEC_PARSE writes no byte outside PACC. -/
theorem byteAt_fecLoad_outside {s : State} (hlen : fecProtLen s ≤ 1460) {a : Nat}
    (ha : ¬ (0x3000 ≤ a ∧ a ≤ 0x35B3)) : byteAt (fecLoad s) a = byteAt s a := by
  rw [byteAt_fecLoad, if_neg (by omega), if_neg ha]

/-- Settles O51: the updates of `fecLoad` after the checks. -/
theorem fecParseResult : Obligations.FecParseResult := by
  intro s long pl hmax hmin hlong hpl hlen
  obtain rfl : fecLongFlag s = long := hlong.symm
  obtain rfl : fecProtLen s = pl := (fecProtLen_eq s).trans hpl.symm
  refine ⟨_, exec_fecParse hmax hmin hlen, rfl, be16_toNat _ _, rfl,
    fun k hk => fecLoad_mw_getElem s hk, fun hs i => ?short, fun hl i hi => ?long,
    lowSix_toNat (inByte s 12), rfl, rfl, rfl, fun k hk => fecHaccLoaded_getElem s hk,
    fun j hj => paccByte_fecLoad s hj, fun a ha => byteAt_fecLoad_outside (by omega) ha,
    fecLoad_prot_toNat s, fecLoad_prot_toNat s, rfl, rfl, rfl⟩
  case short => rw [finish_mask, fecLoad_mask_of_short hs, getLsbD_unwire16]
  case long =>
    rw [finish_mask, fecLoad_mask_of_long hl, getLsbD_unwire48, decide_eq_true hi, Bool.true_and]

/-- Settles O52: the checks of `fecDisassemble` in their order. -/
theorem fecParseErrorsInOrder : Obligations.FecParseErrorsInOrder := by
  refine fun s => ⟨fun hlen => ?_, fun hmin hmax hshort => ?_⟩
  · exact exec_of_body_error (c := .invalidLen) (fecDisassemble_eq_error.2 (.inl ⟨hlen, rfl⟩))
  · rw [← fecProtLen_eq] at hshort
    exact exec_of_body_error (c := .malformedFec)
      (fecDisassemble_eq_error.2 (.inr ⟨hmin, hmax, hshort, rfl⟩))

/-! ### FEC_PARSE of an assembled packet (R95 to R97) -/

section ParseOfAssembled

variable {s u : State}

/-- L of an assembled packet is ISLONG (R63). -/
theorem CarriesPacketOf.fecLongFlag (h : CarriesPacketOf s (inByte u)) :
    fecLongFlag u = s.islong := by
  rw [Machine.fecLongFlag, h.flagsByte, getLsbD_six_highTwo_or_lowSix]
  cases s.islong <;> rfl

/-- The protection length of an assembled packet is PMAX (R64). -/
theorem CarriesPacketOf.fecProtLen (h : CarriesPacketOf s (inByte u)) :
    fecProtLen u = s.pmax.toNat := by
  rw [Machine.fecProtLen, inBE16, h.pmax]

/-- HACC loaded from an assembled packet: the bytes that the packet carries, which are all but bits 7:6 of byte 0 and
the sequence number (R96). -/
theorem CarriesPacketOf.fecHaccLoaded (h : CarriesPacketOf s (inByte u)) :
    fecHaccLoaded u = #v[s.hacc[0] &&& 0x3F, s.hacc[1], 0, 0, s.hacc[4], s.hacc[5], s.hacc[6],
      s.hacc[7], s.hacc[8], s.hacc[9]] := by
  have hword (k : Nat) (hk : k < 6) : inByte u (16 + k) = s.hacc[4 + k] := h.hacc hk
  rw [Machine.fecHaccLoaded, h.flagsByte, lowSix_highTwo_or_lowSix, h.hacc_one, hword 0 (by decide),
    hword 1 (by decide), hword 2 (by decide), hword 3 (by decide), hword 4 (by decide),
    hword 5 (by decide)]

/-- FEC_PARSE of an assembled packet passes its checks: the padding comes after the protected part. -/
theorem CarriesPacketOf.exec_fecParse (h : CarriesPacketOf s (inByte u))
    (hu : u.inLen.toNat = asmL0 s + padTo4 (asmL0 s)) (hlen : asmL0 s + padTo4 (asmL0 s) ≤ 1472) :
    exec .fecParse u = .next (finish (fecLoad u)) := by
  have hL0 := asmL0_eq s
  have hml := mlOf_cases s.islong
  refine Machine.exec_fecParse (by omega) (by omega) ?_
  rw [h.fecLongFlag, h.fecProtLen]
  omega

end ParseOfAssembled

/-- Settles O53: what FEC_PARSE loads from a packet in IN, read off the fields of the packet that FEC_ASM wrote. -/
theorem parseOfAssembledPacket : Obligations.ParseOfAssembledPacket := by
  intro s t u hasm herr hlen hbytes
  obtain ⟨hfits, hmax, rfl⟩ := eq_fecEmit_of_exec_fecAsm hasm herr
  have hout := fecEmit_outLen_toNat hmax
  have hpkt : CarriesPacketOf s (inByte u) := fun k hk =>
    (hbytes k (hout ▸ hk)).trans (carriesPacketOf_fecEmit s k hk)
  have hu : u.inLen.toNat = asmL0 s + padTo4 (asmL0 s) := (congrArg BitVec.toNat hlen).trans hout
  refine ⟨_, hpkt.exec_fecParse hu hmax, rfl, ?mask, hpkt.fecLongFlag, hpkt.snbase, ?prot,
    hpkt.lastSsrc, hpkt.fecHaccLoaded, fun j hj => ?pacc⟩
  case mask => rw [finish_mask, fecLoad_mask, hpkt.fecLongFlag, hpkt.maskRead hfits]
  case prot =>
    apply BitVec.eq_of_toNat_eq
    rw [finish_prot, fecLoad_prot_toNat, hpkt.fecProtLen]
  case pacc =>
    rw [paccByte_finish, paccByte_fecLoad u hj, hpkt.fecProtLen, hpkt.fecLongFlag]
    split
    · next hlt => exact hpkt.payload hlt
    · rfl

/-! ### RECOVER (R98) -/

/-- The recovered length as a number (R98). -/
theorem recoveredLen_eq (s : State) :
    recoveredLen s = 256 * s.hacc[8].toNat + s.hacc[9].toNat := be16_toNat _ _

/-- A mask whose one set bit is `i`. -/
theorem firstSet_of_single {m : Mask} {i : Nat} (hi : i < 48)
    (h : ∀ k, m.getLsbD k = decide (k = i)) : firstSet m = some i :=
  (firstSet_eq_some m i).2
    ⟨hi, (h i).trans (decide_eq_true rfl), fun j hj => (h j).trans (decide_eq_false hj.ne)⟩

theorem popcount_le_one_of_single {m : Mask} {i : Nat}
    (h : ∀ k, m.getLsbD k = decide (k = i)) : popcount m ≤ 1 := by
  refine (popcount_le_one m).2 fun a b ha hb => ?_
  rw [h, decide_eq_true_iff] at ha hb
  rw [ha, hb]

/-- RECOVER of one missing packet whose recovered length is at most PROT. -/
theorem exec_recover {s : State} {i : Nat} (hi : i < 48)
    (hmask : ∀ k, s.mask.getLsbD k = decide (k = i)) (hlen : recoveredLen s ≤ s.prot.toNat) :
    exec .recover s = .next (finish (recoverEmit i s)) :=
  exec_of_body_ok (recoverMissing_eq_ok.2
    (.inr ⟨popcount_le_one_of_single hmask, i, firstSet_of_single hi hmask, hlen, rfl⟩))

/-- The recovered packet's 12 header bytes (R98). -/
def recoveredHeader (i : Nat) (s : State) : List Byte :=
  [Config.recovVbits.setWidth 8 <<< 6 ||| (s.hacc[0] &&& 0x3F), s.hacc[1]]
    ++ toBE16 (s.snbase + BitVec.ofNat 16 i)
    ++ [s.hacc[4], s.hacc[5], s.hacc[6], s.hacc[7]] ++ toBE32 s.fecSsrc

theorem recoveredPacket_eq (i : Nat) (s : State) :
    recoveredPacket i s = recoveredHeader i s ++ paccBytesTo s (recoveredLen s) := rfl

theorem recoveredHeader_length (i : Nat) (s : State) : (recoveredHeader i s).length = 12 := rfl

/-- The bytes `f 0`, `f 1`, ... begin with the packet that RECOVER recovers for the missing offset `i`. -/
def CarriesRecoveredOf (i : Nat) (s : State) (f : Nat → Byte) : Prop :=
  ∀ k < 12 + recoveredLen s, f k = (recoveredPacket i s).getD k 0

theorem carriesRecoveredOf_recoverEmit (i : Nat) (s : State) :
    CarriesRecoveredOf i s (outByte (finish (recoverEmit i s))) := fun k hk => by
  have e : Config.outBase = 0x2000 := rfl
  rw [outByte_finish, outByte, byteAt_recoverEmit, e, if_pos (by omega), Nat.add_sub_cancel_left]

namespace CarriesRecoveredOf

variable {i : Nat} {s : State} {f : Nat → Byte}

theorem header (h : CarriesRecoveredOf i s f) {k : Nat} (hk : k < 12) :
    f k = (recoveredHeader i s).getD k 0 := by
  rw [h k (by omega), recoveredPacket_eq, getD_append_left _ _ _ _ hk]

theorem payload (h : CarriesRecoveredOf i s f) {j : Nat} (hj : j < recoveredLen s) :
    f (12 + j) = paccByte s j := by
  rw [h _ (by omega), recoveredPacket_eq,
    getD_append_right _ _ _ _ (by rw [recoveredHeader_length]; omega), recoveredHeader_length,
    Nat.add_sub_cancel_left, paccBytesTo_getD _ _ _ hj]

theorem firstByte_toNat (h : CarriesRecoveredOf i s f) :
    (f 0).toNat = 128 + s.hacc[0].toNat % 64 := by
  rw [h.header (by decide)]; exact highTwo_or_lowSix_toNat Config.recovVbits s.hacc[0]

theorem hacc_one (h : CarriesRecoveredOf i s f) : f 1 = s.hacc[1] := h.header (by decide)

/-- The recovered sequence number lies at the missing offset from the base (R98). -/
theorem sn_toNat (h : CarriesRecoveredOf i s f) (hi : i < 48) :
    (be16 (f 2) (f 3)).toNat = (s.snbase.toNat + i) % 65536 := by
  have hsn : be16 (f 2) (f 3) = s.snbase + BitVec.ofNat 16 i := by
    simp (disch := decide) only [h.header]; exact be16_hi_lo _
  rw [hsn, BitVec.toNat_add, BitVec.toNat_ofNat, Nat.mod_eq_of_lt (a := i) (by omega)]

theorem hacc (h : CarriesRecoveredOf i s f) {k : Nat} (hk : k < 4) : f (4 + k) = s.hacc[4 + k] := by
  rw [h.header (by omega)]
  interval_cases k <;> rfl

theorem ssrc (h : CarriesRecoveredOf i s f) : be32 (f 8) (f 9) (f 10) (f 11) = s.fecSsrc := by
  simp (disch := decide) only [h.header]; exact be32_toBE32 s.fecSsrc

end CarriesRecoveredOf

/-- RECOVER writes the bytes of the packet from the start of OUT, and no other. -/
theorem byteAt_recoverEmit_outside (i : Nat) (s : State) {a : Nat}
    (ha : ¬ (Config.outBase ≤ a ∧ a < Config.outBase + (12 + recoveredLen s))) :
    byteAt (finish (recoverEmit i s)) a = byteAt s a := by
  have e : Config.outBase = 0x2000 := rfl
  rw [byteAt_finish, byteAt_recoverEmit, if_neg (by rwa [e] at ha)]

/-- RECOVER leaves every register but OUT_LEN, NONE, RES and ERR. -/
theorem finish_recoverEmit_frame (i : Nat) (s : State) :
    finish (recoverEmit i s) =
      { s with
        mem := (finish (recoverEmit i s)).mem
        outLen := (finish (recoverEmit i s)).outLen
        flagNone := (finish (recoverEmit i s)).flagNone
        res := (finish (recoverEmit i s)).res
        err := 0 } := by
  rw [finish, recoverEmit]

/-- Settles O54: the updates of `recoverEmit`, and the fields of the packet that OUT then holds. -/
theorem recoverWritesTheMissingPacket : Obligations.RecoverWritesTheMissingPacket := by
  intro s i bl hi hmask hbl hlen
  obtain rfl : recoveredLen s = bl := (recoveredLen_eq s).trans hbl.symm
  have hpkt := carriesRecoveredOf_recoverEmit i s
  exact ⟨_, exec_recover hi hmask hlen, hpkt.firstByte_toNat, hpkt.hacc_one, hpkt.sn_toNat hi,
    fun k hk => hpkt.hacc hk, hpkt.ssrc, fun j hj => hpkt.payload hj,
    fun a ha => byteAt_recoverEmit_outside i s ha, BitVec.toNat_ofNat _ _, rfl, rfl,
    finish_recoverEmit_frame i s⟩

/-- RECOVER with nothing missing. -/
theorem exec_recover_of_mask_zero {s : State} (h : s.mask = 0) :
    exec .recover s = .next (finish { s with flagNone := true, res := 0 }) :=
  exec_of_body_ok (recoverMissing_eq_ok.2 (.inl ⟨h, rfl⟩))

/-- Settles O55: nothing missing, more than one bit, and one bit with a length above PROT. -/
theorem recoverOtherOutcomes : Obligations.RecoverOtherOutcomes := by
  refine fun s => ⟨fun hzero => ?nothing, fun i j hne hi hj => ?two, fun i hmask hi hlen => ?above⟩
  case nothing => exact ⟨_, exec_recover_of_mask_zero hzero, fun _ => rfl, rfl⟩
  case two =>
    have hmany : 1 < popcount s.mask := by
      refine Nat.lt_of_not_le fun hle => hne ?_
      exact (popcount_le_one s.mask).1 hle i j hi hj
    exact exec_of_body_error (c := .unrecoverable) (recoverMissing_eq_error.2 (.inl ⟨hmany, rfl⟩))
  case above =>
    have hnonzero : s.mask ≠ 0 := fun hzero => by
      have hfirst := firstSet_of_single hi hmask
      rw [(firstSet_eq_none_iff_zero s.mask).2 hzero] at hfirst
      cases hfirst
    rw [← recoveredLen_eq] at hlen
    exact exec_of_body_error (c := .malformedFec) (recoverMissing_eq_error.2
      (.inr ⟨popcount_le_one_of_single hmask, hnonzero, hlen, rfl⟩))

end Sys2Proof.Machine
end

section
/-! PROOFS. The error record of 60_exceptions.md (R104 to R107): what a failing and a succeeding command write of it,
the codes a command leaves in ERR, and the record's invariant over every step. -/

namespace Sys2Proof.Machine

/-! ### What a command writes of the error record (R106, R107) -/

/-- Settles O9: a failing command takes an error on the state before it, and the updates of a succeeding one leave
STICKY and ERRCMD. -/
theorem failureWritesOnlyTheErrorRecord : Obligations.FailureWritesOnlyTheErrorRecord := by
  intro i s t h
  obtain ⟨u, hb, rfl⟩ | ⟨c, -, rfl⟩ := exec_cases h
  · refine ⟨fun hfail => absurd (finish_err u) hfail, fun _ hi => ?_⟩
    obtain ⟨-, -, -, -, hrecord⟩ := body_ok_frame hb
    obtain ⟨hsticky, herrcmd, -⟩ := hrecord hi
    exact ⟨hsticky, herrcmd⟩
  · exact ⟨fun _ => raiseErr_eq_errorRecord (encode i) c s, fun hok => absurd hok c.number_ne_zero⟩

/-! ### The codes of a command (R104, R105) -/

/-- Every command may succeed. -/
theorem zero_mem_raisableBy (i : Instr) : 0 ∈ raisableBy i := by
  unfold raisableBy
  split <;> decide

/-- No row of the table of R104 has a code above UNRECOVERABLE. -/
theorem toNat_le_six_of_mem_raisableBy {i : Instr} {n : BitVec 4} (h : n ∈ raisableBy i) :
    n.toNat ≤ 6 := by
  have hrows : ∀ m ∈ raisableBy i, m.toNat ≤ 6 := by
    unfold raisableBy
    split <;> decide
  exact hrows n h

theorem exec_err_mem_raisableBy {i : Instr} {s t : State} (h : exec i s = .next t) :
    t.err ∈ raisableBy i := by
  obtain ⟨u, -, rfl⟩ | ⟨c, hb, rfl⟩ := exec_cases h
  · exact zero_mem_raisableBy i
  · exact body_error_mem hb

/-- Settles O10: the code is in the command's row, and no row has a code above 6. -/
theorem commandsRaiseOnlyTheirCodes : Obligations.CommandsRaiseOnlyTheirCodes := by
  intro i s t h
  have hcode := exec_err_mem_raisableBy h
  exact ⟨hcode, toNat_le_six_of_mem_raisableBy hcode⟩

/-! ### The invariant of the error record (R105, R107; 93 V5) -/

/-- The error record: ERR, STICKY and ERRCMD, the registers that `ErrorRecordInv` reads. -/
def recordView (s : State) : BitVec 4 × Bool × Word := (s.err, s.flagSticky, s.errcmd)

theorem ErrorRecordInv.congr {s t : State} (hs : ErrorRecordInv s) (h : recordView t = recordView s) :
    ErrorRecordInv t := by
  simp only [recordView, Prod.mk.injEq] at h
  obtain ⟨herr, hsticky, herrcmd⟩ := h
  exact ⟨herr ▸ hs.codeAssigned, herr ▸ hsticky ▸ hs.errorIsSticky,
    hsticky ▸ herrcmd ▸ hs.noErrorNoCommand⟩

/-- An error with an assigned code is latched, whatever the record before it (R107). -/
theorem errorRecordInv_raiseErr {c : ErrCode} (hc : c.number.toNat ≤ 6) (w : Word) (s : State) :
    ErrorRecordInv (raiseErr w c s) where
  codeAssigned := hc
  errorIsSticky _ := rfl
  noErrorNoCommand h := absurd h (by simp)

/-- `finish()` clears ERR, so that only the clause about ERRCMD is left to the updates before it (R107). -/
theorem errorRecordInv_finish {u : State} (h : u.flagSticky = false → u.errcmd = 0) :
    ErrorRecordInv (finish u) where
  codeAssigned := Nat.zero_le 6
  errorIsSticky hne := absurd (finish_err u) hne
  noErrorNoCommand := h

/-- A successful command's updates keep ERRCMD 0 while nothing is latched: STAT_CLR clears both, every other command
leaves both. -/
theorem body_ok_noErrorNoCommand {i : Instr} {s u : State} (hs : ErrorRecordInv s)
    (h : body i s = .ok u) : u.flagSticky = false → u.errcmd = 0 := by
  by_cases hi : i = .statClr
  · subst hi; cases h; exact fun _ => rfl
  · obtain ⟨-, -, -, -, hrecord⟩ := body_ok_frame h
    obtain ⟨hsticky, herrcmd, -⟩ := hrecord hi
    rw [hsticky, herrcmd]
    exact hs.noErrorNoCommand

/-- Every command keeps the invariant. -/
theorem ErrorRecordInv.exec {i : Instr} {s t : State} (hs : ErrorRecordInv s)
    (h : exec i s = .next t) : ErrorRecordInv t := by
  obtain ⟨u, hb, rfl⟩ | ⟨c, hb, rfl⟩ := exec_cases h
  · exact errorRecordInv_finish (body_ok_noErrorNoCommand hs hb)
  · exact errorRecordInv_raiseErr (toNat_le_six_of_mem_raisableBy (body_error_mem hb)) _ s

/-- A read leaves the error record: BUSERR is not a part of it (R44). -/
theorem recordView_busRead (w : Width) (a : Nat) (s : State) :
    recordView (busRead w a s) = recordView s := by
  unfold busRead
  split <;> rfl

/-- A write that is not a command leaves the error record (R44). -/
theorem recordView_busStore (w : Width) (a : Nat) (d : Word) (s : State) :
    recordView (busStore w a d s) = recordView s := by
  unfold busStore
  split
  · cases w
    case b32 => dsimp only; split_ifs <;> rfl
    all_goals rfl
  · rfl

/-- A reset establishes the invariant, whatever the state before it (R117). -/
theorem errorRecordInv_afterReset (s : State) : ErrorRecordInv (afterReset s) :=
  errorRecordInvAtReset.congr rfl

/-- Settles O15: each thing that a step can serve keeps the invariant. -/
theorem everyStepKeepsErrorRecordInv : Obligations.EveryStepKeepsErrorRecordInv := by
  intro s t hs h
  have hrest : ∀ rest, ErrorRecordInv { s with host := rest } := fun _ => hs.congr rfl
  obtain ⟨-, rfl⟩ | ⟨rest, -, rfl⟩ | ⟨rest, w, a, -, rfl⟩ | ⟨rest, w, a, d, -, -, rfl⟩ |
    ⟨rest, a, d, -, -, hc⟩ := step_cases h
  · exact hs
  · exact errorRecordInv_afterReset _
  · exact (hrest rest).congr (recordView_busRead w a.toNat _)
  · exact (hrest rest).congr (recordView_busStore w a.toNat d _)
  · obtain ⟨i, -, hx⟩ | ⟨-, rfl⟩ := hc
    · exact (hrest rest).exec hx
    · exact errorRecordInv_raiseErr (by decide) d _

end Sys2Proof.Machine
end

section
/-! PROOFS. The reset of 70_reset_and_hazards.md: what a reset event leaves in the registers and in PACC (R117), and
how near the four clearing commands come to it (R118). -/

namespace Sys2Proof.Machine

/-! ### The reset event (R34, R117) -/

/-- Row by row of R36, the word of a register at its reset value is 0; an address of no row reads 0 as well. -/
theorem regWord_reset (a : Nat) : regWord State.reset a = 0 := by
  unfold regWord
  split <;> decide

/-- What a reset event takes over from the state before it (log 1, log 3, log 9) stands in no register. -/
theorem regWord_afterReset (s : State) (a : Nat) : regWord (afterReset s) a = 0 :=
  (show regWord (afterReset s) a = regWord State.reset a from rfl).trans (regWord_reset a)

theorem paccByte_afterReset (s : State) {j : Nat} (hj : j < 1460) : paccByte (afterReset s) j = 0 :=
  paccByte_of_mem_nil rfl hj

/-- Settles O23: the step that serves a reset goes to `afterReset` of the state whose later events still wait. -/
theorem resetEventClearsEveryRegister : Obligations.ResetEventClearsEveryRegister := by
  intro s rest hhost
  exact ⟨afterReset { s with host := rest }, step_reset hhost, fun a _ => regWord_afterReset _ a,
    fun _ hj => paccByte_afterReset _ hj, rfl⟩

/-! ### The four clearing commands (R118) -/

/-- `CTX_NEW #0; ACC_CLR; MASK_CLR`: the updates of R70, R73 and R78, each finished before the next. -/
def afterThreeClears (s : State) : State :=
  let t := finish { s with fecPt := ptOperand 0, fecSeq := 0 }
  finish { finish (accCleared t) with mask := 0 }

/-- STAT_CLR after the other three (R71). -/
def afterFourClears (s : State) : State := finish (clearErrorRecord (afterThreeClears s))

/-- ACC_CLR zeroes every byte of PACC (R73). -/
theorem paccByte_accCleared (s : State) {j : Nat} (hj : j < 1460) : paccByte (accCleared s) j = 0 := by
  have e : Config.paccBase = 0x3000 := rfl
  rw [paccByte, byteAt_accCleared, if_pos (by omega)]

/-- Of the four only ACC_CLR writes the buffers, so PACC stays as it leaves it. -/
theorem paccByte_afterFourClears (s : State) {j : Nat} (hj : j < 1460) :
    paccByte (afterFourClears s) j = 0 :=
  calc paccByte (afterFourClears s) j
    _ = paccByte (afterThreeClears s) j := by
      rw [afterFourClears, paccByte_finish, paccByte_clearErrorRecord]
    _ = paccByte (accCleared (finish { s with fecPt := ptOperand 0, fecSeq := 0 })) j := rfl
    _ = 0 := paccByte_accCleared _ hj

/-- Settles O28: each command succeeds in every state, and together they write every register outside R118's list. -/
theorem fourClearsReachTheResetValues : Obligations.FourClearsReachTheResetValues := by
  intro s
  exact ⟨_, _, afterThreeClears s, afterFourClears s, exec_ctxNew 0 s, exec_accClr _, exec_maskClr _,
    exec_statClr _, fun _ hj => paccByte_afterFourClears s hj, rfl⟩

end Sys2Proof.Machine
end

section
/-! PROOFS. Decoding and encoding are inverse to each other (R51 to R57). -/

namespace Sys2Proof

/-! ### A well-formed command is decoded from its own word -/

/-- The opcode of R55 selects the command's format, and the format accepts the operands that fit their fields (R52). -/
theorem decode_encode {i : Instr} (h : WellFormed i) : decode (encode i) = .ok i := by
  cases i <;> simp only [decode, encode, opField_mkWord, aField_mkWord, bField_mkWord]
  case ctxNew pt => exact decodeP_eq_ok.2 ⟨rfl, h, rfl⟩
  case accFoldHdr lim | accFoldPay lim | accFold lim | rtpParse lim =>
    exact decodeL_eq_ok.2 ⟨rfl, lim, rfl, rfl⟩
  case maskSetImm ofs | maskClrbImm ofs | maskTestImm ofs =>
    exact decodeO_eq_ok.2 ⟨rfl, .inr ⟨h, rfl⟩⟩
  case maskSetOff | maskClrbOff | maskTestOff => exact decodeO_eq_ok.2 ⟨rfl, .inl ⟨rfl, rfl⟩⟩
  case maskIslongImm gs mo => exact decodeG_eq_ok.2 (.inr ⟨h, rfl⟩)
  case maskIslongAcc => exact decodeG_eq_ok.2 (.inl ⟨rfl, rfl, rfl⟩)
  case snOffImm n | snAddImm n | snSetbaseImm n => exact decodeN_eq_ok.2 (.inr ⟨rfl, rfl⟩)
  case snOffRtp | snAddOff | snSetbaseRtp => exact decodeN_eq_ok.2 (.inl ⟨rfl, rfl, rfl⟩)
  all_goals exact decodeZ_eq_ok.2 ⟨rfl, rfl, rfl⟩

/-- Settles O1: no format drops a bit of an operand that fits its field. -/
theorem decodeEncodeAgree : Obligations.DecodeEncodeAgree := fun _ => decode_encode

/-! ### A legal word is spelled by the command it decodes to -/

/-- Settles O2: `Spells` is the well-formedness of the command and the equality of its word with the one decoded. -/
theorem encodeDecodeAgree : Obligations.EncodeDecodeAgree := fun _ _ => spells_of_decode

end Sys2Proof
end
